-- ==== Sys2Proof/Word.lean ====
section
/-! DEFINITION. The word types of the core. Every value is an unsigned integer of a stated width (spec/00_scope.md R6). -/

namespace Sys2Proof

/-- One bit: a raw channel bit, a data bit, a one-bit register. -/
abbrev Bit := BitVec 1

/-- One storage word of the window, and the width of every value EXT and RDS return (R4 WORD_BITS). -/
abbrev Word := BitVec 32

/-- One command word (R4 CMD_BITS). -/
abbrev CommandWord := BitVec 16

end Sys2Proof
end

