-- ==== Sys2Proof/Syntax.lean ====
section
/-! DEFINITION. The five commands of spec/30_encoding.md R51 (spec/opcode_table.json, five rows). -/

namespace Sys2Proof

/-- A command. Operands as R52 assembles them: nothing is biased, scaled or extended. The two operands of EXT are numbers
(R89 (c): the legality tests are exact on naturals); the ranges their fields can hold are `wellFormed`. -/
inductive Instr where
  /-- NOP: do nothing (R136). -/
  | nop
  /-- INIT: initialise the instance (R135). -/
  | init
  /-- UPD b: ingest one raw channel bit (R100). -/
  | upd (b : Bit)
  /-- EXT bit_index, n_bits: read a field of the window (R80). -/
  | ext (bitIndex nBits : Nat)
  /-- RDS sel: read one state register (R137). -/
  | rds (sel : BitVec 3)
  deriving DecidableEq, Repr

end Sys2Proof
end

