-- ==== Sys2Proof/WellFormed.lean ====
section
/-! DEFINITION. Which commands have a command word: the operand ranges of spec/30_encoding.md R62. -/

namespace Sys2Proof

/-- The operands fit their fields: 0 <= bit_index <= 127 and 0 <= n_bits <= 63 (R51 format X, R62). The operands of UPD and RDS
have the widths of their fields already. -/
def wellFormed : Instr → Bool
  | .nop => true
  | .init => true
  | .upd _ => true
  | .ext bitIndex nBits => decide (bitIndex ≤ 127) && decide (nBits ≤ 63)
  | .rds _ => true

end Sys2Proof
end

