-- ==== Sys2Proof/Decode.lean ====
section
/-! DEFINITION. The decoder, total on all 65536 command words, and after it the encoder (spec/30_encoding.md R51 to R53, R62). -/

namespace Sys2Proof

/-- Why a word is no command (R53). Both are answered with ILLEGAL_COMMAND. -/
inductive DecodeError where
  /-- bits 15:13 are 101, 110 or 111 -/
  | reservedOpcode
  /-- the opcode exists, but a bit its format requires to be 0 is 1 -/
  | mustBeZero
  deriving DecidableEq, Repr

/-- One row of the command table: a word `c` selects it when `c & mask = match` (R51). -/
structure OpcodeRow where
  mnemonic : String
  pattern : CommandWord
  mask : CommandWord
  deriving DecidableEq, Repr

/-- R51: a word selects a row when its masked bits are the row's. -/
def selects (row : OpcodeRow) (c : CommandWord) : Bool := c &&& row.mask == row.pattern

/-- R51, row NOP. -/
def rowNop : OpcodeRow := { mnemonic := "NOP", pattern := 0x0000, mask := 0xFFFF }

/-- R51, row INIT. -/
def rowInit : OpcodeRow := { mnemonic := "INIT", pattern := 0x2000, mask := 0xFFFF }

/-- R51, row UPD. -/
def rowUpd : OpcodeRow := { mnemonic := "UPD", pattern := 0x4000, mask := 0xFFFE }

/-- R51, row EXT. -/
def rowExt : OpcodeRow := { mnemonic := "EXT", pattern := 0x6000, mask := 0xE000 }

/-- R51, row RDS. -/
def rowRds : OpcodeRow := { mnemonic := "RDS", pattern := 0x8000, mask := 0xFFF8 }

/-- The command table of R51, in its order. -/
def opcodeRows : List OpcodeRow := [rowNop, rowInit, rowUpd, rowExt, rowRds]

/-- R51: bits 15:13 of a command word. -/
def opField (c : CommandWord) : BitVec 3 := c.extractLsb' 13 3

/-- The decoder (R51, R53). Operands by R52: `b = c[0]`, `bit_index = c[12:6]`, `n_bits = c[5:0]`, `sel = c[2:0]`. -/
def decode (c : CommandWord) : Except DecodeError Instr :=
  if selects rowNop c then .ok .nop
  else if selects rowInit c then .ok .init
  else if selects rowUpd c then .ok (.upd (c.extractLsb' 0 1))
  else if selects rowExt c then .ok (.ext (c.extractLsb' 6 7).toNat (c.extractLsb' 0 6).toNat)
  else if selects rowRds c then .ok (.rds (c.extractLsb' 0 3))
  else if 5 ≤ (opField c).toNat then .error .reservedOpcode
  else .error .mustBeZero

/-- The encoder, from the assembler table of R62. A command that is not well-formed has no word; what stands here for it is of
no consequence. -/
def encode : Instr → CommandWord
  | .nop => 0x0000
  | .init => 0x2000
  | .upd b => 0x4000 + b.setWidth 16
  | .ext bitIndex nBits => BitVec.ofNat 16 (0x6000 + 64 * bitIndex + nBits)
  | .rds sel => 0x8000 + sel.setWidth 16

/-- The opcode of a command (R51), for statements about encodings. -/
def opcodeOf : Instr → BitVec 3
  | .nop => 0
  | .init => 1
  | .upd _ => 2
  | .ext _ _ => 3
  | .rds _ => 4

/-- What the decoder reads from a command of `nbits` bits numbered as spec/opcode_table.json numbers them. Every command is one
16-bit word (R51), so bits above 15 make it no command (log entry 14). -/
def decodeTableWord (_nbits w : Nat) : Option Instr :=
  if w < 2 ^ 16 then (decode (BitVec.ofNat 16 w)).toOption else none

end Sys2Proof
end

