-- ==== Sys2Proof/Config.lean ====
section
/-! DEFINITION. The parameters of spec/00_scope.md R4: the fixed ones with their values, the OPEN ones PHASE_AT_LOCK and HOOK as
opaque constants (nothing in Lean can evaluate them, so a theorem holds for every value of them). The OPEN parameter N_CHANNELS
is the number of instances a state holds (Machine/State.lean, log entry 4). -/

namespace Sys2Proof.Config

/-- R4 TM_PATTERN, on the 32 bits of `TM` (R59: bits 31:30 are 0). -/
def tmPattern : Word := 0x3E375096

/-- R4 TM_MASK, the document's mask30. -/
def tmMask : Word := 0x3FFFFFFF

/-- R4 WINDOW_BITS. -/
def windowBits : Nat := 96

/-- R4 MAX_FIELD. -/
def maxField : Nat := 32

/-- R4 SN_INDEX. -/
def snIndex : Nat := 81

/-- R4 SN_WIDTH. -/
def snWidth : Nat := 4

/-- R4 DUMMY_INDEX. -/
def dummyIndex : Nat := 85

/-- R4 DUMMY_WIDTH. -/
def dummyWidth : Nat := 1

/-- R4 DUMMY_EXPECTED. -/
def dummyExpected : Word := 0

/-- R4 NEXT_ID_INIT. -/
def nextIdInit : BitVec 4 := 1

/-- R4 SN_MAX, after which NEXT_ID wraps to 1 (R125). -/
def snMax : BitVec 4 := 15

/-- The two OPEN parameters a command reads, as one argument of the operations (R4, R123, R93). -/
structure Params where
  /-- PHASE_AT_LOCK: the value latched into PHASE when the time mark is found. -/
  phaseAtLock : Bit
  /-- HOOK: (W96, NEXT_ID) to 1 (accept) or 0 (reject). -/
  hook : BitVec 96 → BitVec 4 → Bit

/-- PHASE_AT_LOCK of this machine: OPEN in R4, so an opaque constant (DESIGN CHOICE, log entry 7). -/
opaque phaseAtLock : Bit

/-- HOOK of this machine: OPEN in R4 and R123, so an opaque constant (DESIGN CHOICE, log entry 8). -/
opaque hook : BitVec 96 → BitVec 4 → Bit

/-- The parameters of this machine. -/
def params : Params := { phaseAtLock := phaseAtLock, hook := hook }

/-- The defaults R4 names (PHASE_AT_LOCK 0, HOOK constant 1), for tests of the spec's vectors; the machine does not use them. -/
def defaultParams : Params := { phaseAtLock := 0, hook := fun _ _ => 1 }

end Sys2Proof.Config
end

