-- ==== Sys2Proof/Machine/State.lean ====
section
/-! DEFINITION. The state of the machine: the registers of every instance (spec/10_state.md R10 to R17, R28), and beside them the
run's record that R180 (spec/70_reset_and_hazards.md) speaks of: what the hosts send next and what they were answered. -/

namespace Sys2Proof.Machine

/-- The BitWindow: `W[0]`, `W[1]`, `W[2]` (R11, R30). -/
structure Window where
  w0 : Word
  w1 : Word
  w2 : Word
  deriving DecidableEq, Repr

/-- The registers of one core instance, the closed list of R10. -/
structure Channel where
  /-- `STATE`, 2 bits (R17). -/
  st : BitVec 2
  /-- `HEAD`, 7 bits (R13). -/
  head : BitVec 7
  /-- `TM`, 32 bits (R12). -/
  tm : Word
  /-- `NEXT_ID`, 4 bits (R14). -/
  nextId : BitVec 4
  /-- `MC`, 1 bit (R15). -/
  mc : Bit
  /-- `PHASE`, 1 bit (R16). -/
  phase : Bit
  /-- `W[0..2]` (R11). -/
  win : Window
  deriving DecidableEq, Repr

/-- What a value of `STATE` means to every rule (R17, R58). -/
inductive Mode where
  | invalid
  | search
  | collect
  deriving DecidableEq, Repr

/-- The contract violations (spec/60_exceptions.md R146); their codes are `Violation.code` (Machine/Flags.lean). -/
inductive Violation where
  | illegalCommand
  | notInitialised
  | badWidth
  | badIndex
  | fieldOverrun
  | cursorRange
  deriving DecidableEq, Repr

/-- The statuses of UPD (spec/30_encoding.md R55); their codes are `Status.code` (Machine/Flags.lean). -/
inductive Status where
  | none
  | stringReady
  | syncLoss
  deriving DecidableEq, Repr

/-- A response record (R54). A field a command does not set is 0, so each has 0 as its default. The field `err` of the packed
record is computed from `violation` (Machine/Flags.lean). -/
structure Response where
  data : Word := 0
  stringId : BitVec 4 := 0
  status : Status := .none
  lossFlags : BitVec 3 := 0
  seqMatch : Bit := 0
  violation : Option Violation := .none
  deriving DecidableEq, Repr

/-- What arrives from outside: a command word sent to an instance by its host (R50), or a power-on reset of an instance (R170). -/
inductive Input where
  | command (channel : Nat) (word : CommandWord)
  | powerOnReset (channel : Nat)
  deriving DecidableEq, Repr

/-- The machine: N_CHANNELS independent instances (R28, R158), of which `chan` is the one addressed, those numbered below it
stand in `before` and those above it in `after`; and the run's record (R180). The last two fields are the model's own (log
entries 1 and 3): no register of the core. -/
structure State where
  /-- The instances numbered below the addressed one. -/
  before : List Channel
  /-- The addressed instance; its number is the length of `before`. -/
  chan : Channel
  /-- The instances numbered above the addressed one. -/
  after : List Channel
  /-- What the hosts send next, in order. -/
  inbox : List Input
  /-- Every response returned so far, newest first, each with the number of the instance that gave it. -/
  responses : List (Nat × Response)
  deriving DecidableEq, Repr

/-- The model's only fault. No meaning raises it. -/
inductive Fault where
  /-- Raised by `step` alone, when an input is addressed to an instance number the machine does not have (log entry 5). Safe: the
  spec has no such instance. -/
  | noSuchInstance
  deriving DecidableEq, Repr

/-- Refusals. -/
inductive Refusal where
  /-- Raised by `exec` alone, for an instruction that has no meaning yet; no arm does. Safe. -/
  | notModelled (mnemonic : String)
  deriving DecidableEq, Repr

/-- One instance after power-on reset: STATE = INVALID and every other register 0 (R26, R170). -/
def Channel.reset : Channel :=
  { st := 0, head := 0, tm := 0, nextId := 0, mc := 0, phase := 0, win := { w0 := 0, w1 := 0, w2 := 0 } }

/-- A machine of N_CHANNELS = `more + 1` instances after power-on reset (R26, R158): no input has arrived, no response was given. -/
def State.resetWith (more : Nat) : State :=
  { before := [], chan := .reset, after := List.replicate more .reset, inbox := [], responses := [] }

/-- The machine after power-on reset with the default N_CHANNELS = 1 of R4 (log entry 4). -/
def State.reset : State := State.resetWith 0

end Sys2Proof.Machine
end

