-- ==== Sys2Proof/Machine/Ops.lean ====
section
/-! DEFINITION. The named operations over the window, the registers, the response record's delivery and the inputs: every meaning
reads and writes the state through these. -/

namespace Sys2Proof.Machine

/-! ### The window as memory (spec/20_memory.md) -/

/-- `ones(n)`: the 32-bit value with the low `n` bits set, as an integer expression (R6). -/
def ones (n : Nat) : Word := BitVec.ofNat 32 (2 ^ n - 1)

/-- `W[slot]`. A legal request has `slot` 0, 1 or 2 (R82, R83); no caller passes more (log entry 13). -/
def Window.word (w : Window) : Nat → Word
  | 0 => w.w0
  | 1 => w.w1
  | _ => w.w2

/-- Write `W[slot]`, `slot` 0, 1 or 2. -/
def Window.setWord (w : Window) (slot : Nat) (v : Word) : Window :=
  match slot with
  | 0 => { w with w0 := v }
  | 1 => { w with w1 := v }
  | _ => { w with w2 := v }

/-- The 96-bit view `W96 = W[2] ++ W[1] ++ W[0]` (R32). -/
def Window.w96 (w : Window) : BitVec 96 := w.w2 ++ w.w1 ++ w.w0

/-- `zext_32(MemRead(addr, n))` (R36), for 1 <= n <= 32 and addr + n <= 96. -/
def memRead (w : Window) (addr n : Nat) : Word := (w.w96.extractLsb' addr n).setWidth 32

/-- The window bit at offset `addr`: `MemRead(addr, 1)`. -/
def memBit (w : Window) (addr : Nat) : Bit := w.w96.extractLsb' addr 1

/-- `MemWrite(addr, 1, v)` (R37), for addr <= 95: it sets or clears one bit of `W[addr / 32]`. -/
def memWrite (w : Window) (addr : Nat) (v : Bit) : Window :=
  w.setWord (addr / 32)
    ((w.word (addr / 32) &&& ~~~(1#32 <<< (addr % 32))) ||| (v.setWidth 32 <<< (addr % 32)))

/-- `MemWrite(0, 96, 0)` (R37): the whole window cleared. -/
def clearedWindow : Window := { w0 := 0, w1 := 0, w2 := 0 }

/-- `Extract(W, bit_index, n_bits)` for a legal request: the same-word case of R82 and the crossing case of R83
(spec/40_extract.md). -/
def extract (w : Window) (bitIndex nBits : Nat) : Word :=
  let off := bitIndex - 1
  let slot := off / 32
  let biw := off % 32
  if biw + nBits ≤ 32 then (w.word slot >>> biw) &&& ones nBits
  else
    let s := 32 - biw
    let low := (w.word slot >>> biw) &&& ones s
    let high := w.word (slot + 1) &&& ones (nBits - s)
    low ||| (high <<< s)

/-! ### The registers of one instance -/

/-- What `STATE` means: codes 0 and 3 are INVALID (R17, R58). -/
def Channel.mode (c : Channel) : Mode :=
  if c.st = 1 then .search else if c.st = 2 then .collect else .invalid

/-- The code a named state is written with (R58). -/
def Mode.code : Mode → BitVec 2
  | .invalid => 0
  | .search => 1
  | .collect => 2

/-- `zext_32(x[sel])`, the registers by number (R22, R137). The two bits of `STATE` are returned as they stand (log entry 9). -/
def Channel.register (c : Channel) (sel : BitVec 3) : Word :=
  match sel.toNat with
  | 0 => c.st.setWidth 32
  | 1 => c.head.setWidth 32
  | 2 => c.tm
  | 3 => c.nextId.setWidth 32
  | 4 => (c.phase ++ c.mc).setWidth 32
  | 5 => c.win.w0
  | 6 => c.win.w1
  | _ => c.win.w2

/-- The writes of INIT (R135): a constant, whatever the registers were. -/
def Channel.initialised : Channel :=
  { st := Mode.search.code, head := 0, tm := 0, nextId := Config.nextIdInit, mc := 0, phase := 0, win := clearedWindow }

/-- The new `TM` of a UPD in SEARCH: `((TM << 1) | b) & 0x3FFFFFFF` (R101). -/
def shiftedTm (tm : Word) (b : Bit) : Word := ((tm <<< 1) ||| b.setWidth 32) &&& Config.tmMask

/-- The compare of R102, on the new `TM`. -/
def isTimeMark (tm : Word) : Bool := tm &&& Config.tmMask == Config.tmPattern

/-- The writes of the lock (R103); `TM` and `NEXT_ID` are not written. -/
def Channel.lock (p : Config.Params) (c : Channel) : Channel :=
  { c with st := Mode.collect.code, head := 0, mc := 0, phase := p.phaseAtLock, win := clearedWindow }

/-- The writes of the sync loss (R126, R150); `NEXT_ID` is not written. -/
def Channel.syncLoss (c : Channel) : Channel :=
  { c with st := Mode.search.code, head := 0, tm := 0, mc := 0, phase := 0, win := clearedWindow }

/-! ### Responses and the delivery of a contract violation (spec/60_exceptions.md R147) -/

/-- The number of the addressed instance. -/
def State.channelNo (s : State) : Nat := s.before.length

/-- Write the addressed instance's registers. -/
def State.withChan (s : State) (c : Channel) : State := { s with chan := c }

/-- Return a response to the host of the addressed instance: it is put on the run's record (R50, R180). -/
def State.respond (s : State) (r : Response) : State :=
  { s with responses := (s.channelNo, r) :: s.responses }

/-- The response of a contract violation: the code, every other field 0 (R147, R54). -/
def violationResponse (v : Violation) : Response := { violation := some v }

/-- Taking a contract violation (R147): no register is written, the response carries the code, and the core is ready for the next
command in the state it had. Nothing is saved, so there is no return from it (R151). -/
def raiseViolation (v : Violation) (s : State) : State := s.respond (violationResponse v)

/-- A command's end: its new registers and its response take effect together (R41), or the violation it raised undoes it as a
whole (R147). -/
def deliver (s : State) : Except Violation (Channel × Response) → State
  | .ok (c, r) => (s.withChan c).respond r
  | .error v => raiseViolation v s

/-! ### Inputs and instances (spec/10_state.md R28, spec/60_exceptions.md R158) -/

/-- All instances in order. -/
def State.channels (s : State) : List Channel := s.before ++ s.chan :: s.after

/-- Address instance `k`: nothing but which instance is addressed changes. No value if there is no instance `k`. -/
def State.address (s : State) (k : Nat) : Option State :=
  match s.channels.drop k with
  | [] => none
  | c :: rest => some { s with before := s.channels.take k, chan := c, after := rest }

/-- The number of the instance an input is addressed to. -/
def Input.target : Input → Nat
  | .command k _ => k
  | .powerOnReset k => k

/-- Take the next input off the inbox. -/
def State.takeInput (s : State) : Option (Input × State) :=
  match s.inbox with
  | [] => none
  | x :: rest => some (x, { s with inbox := rest })

/-- A power-on reset of the addressed instance (R170): every register of R26's first column, and no response. -/
def powerOn (s : State) : State := s.withChan Channel.reset

/-- A word that matches no row of R51: `raise ContractViolation(ILLEGAL_COMMAND)`, in every state (R53, R170). -/
def illegalCommand (s : State) : State := raiseViolation .illegalCommand s

/-- The host of the addressed instance sends command word `c` next. -/
def State.sendFirst (s : State) (c : CommandWord) : State :=
  { s with inbox := .command s.channelNo c :: s.inbox }

end Sys2Proof.Machine
end

