-- ==== Sys2Proof/Machine/Control.lean ====
section
/-! DEFINITION. Initialisation and control: the commands NOP, INIT and RDS (spec/44_init_control.md R135 to R137). -/

namespace Sys2Proof.Machine

/-- NOP (R136): an empty response, in every state. -/
def execNop (s : State) : Host.Outcome State Fault Refusal := .next (s.respond {})

/-- INIT (R135): the same registers from every state, and an empty response. -/
def execInit (s : State) : Host.Outcome State Fault Refusal := .next ((s.withChan Channel.initialised).respond {})

/-- RDS sel (R137): the register's value, in every state. -/
def execRds (sel : BitVec 3) (s : State) : Host.Outcome State Fault Refusal :=
  .next (s.respond { data := s.chan.register sel })

end Sys2Proof.Machine
end

