-- ==== Sys2Proof/Machine/Operands.lean ====
section
/-! DEFINITION. The operand forms: the legality of EXT's request (spec/40_extract.md R80, R81) and the absolute bit address it
reads (spec/44_init_control.md R138 (b)). UPD's one bit and RDS's register number are legal at every value (R52, R137). -/

namespace Sys2Proof.Machine

/-- The tests of R80 on EXT's operands, in their order (R148): the first that fails, if one does. -/
def requestViolation (bitIndex nBits : Nat) : Option Violation :=
  if nBits < 1 ∨ Config.maxField < nBits then some .badWidth
  else if bitIndex < 1 ∨ Config.windowBits < bitIndex then some .badIndex
  else if Config.windowBits < bitIndex + nBits - 1 then some .fieldOverrun
  else none

/-- EXT (R80) on the registers of one instance: the data, or the first violation. No register is written (R85). -/
def extField (c : Channel) (bitIndex nBits : Nat) : Except Violation (Channel × Response) :=
  match c.mode with
  | .invalid => .error .notInitialised
  | .search | .collect =>
    match requestViolation bitIndex nBits with
    | some v => .error v
    | none => .ok (c, { data := extract c.win bitIndex nBits })

end Sys2Proof.Machine
end

