-- ==== Sys2Proof/Machine/Extract.lean ====
section
/-! DEFINITION. The FieldExtractor: the command EXT (spec/40_extract.md R80 to R88). -/

namespace Sys2Proof.Machine

/-- EXT bit_index, n_bits (R80). -/
def execExt (bitIndex nBits : Nat) (s : State) : Host.Outcome State Fault Refusal :=
  .next (deliver s (extField s.chan bitIndex nBits))

end Sys2Proof.Machine
end

