-- ==== Sys2Proof/Machine/Flags.lean ====
section
/-! DEFINITION. The core has no status flags (spec/10_state.md R24). What it computes in their place: the string check with its
loss flags (spec/43_string_check.md R120 to R126) and the codes and packing of the response record (spec/30_encoding.md R54 to
R57). -/

namespace Sys2Proof.Machine

/-- What `StringCheck()` returns: `(ok, sn, flags, seq)` with `ok` computed from `flags` (R124). -/
structure Verdict where
  sn : BitVec 4
  flags : BitVec 3
  seq : Bit
  deriving DecidableEq, Repr

/-- `1` for true, as R124 writes a comparison's outcome into a bit. -/
def bitOf (b : Bool) : Bit := BitVec.ofBool b

/-- `StringCheck()` (R124), on the window and NEXT_ID of an instance: all three checks are always evaluated. -/
def stringCheck (p : Config.Params) (c : Channel) : Verdict :=
  let sn := extract c.win Config.snIndex Config.snWidth
  let dm := extract c.win Config.dummyIndex Config.dummyWidth
  let hk := p.hook c.win.w96 c.nextId
  { sn := sn.setWidth 4
    flags := bitOf (hk == 0) ++ bitOf (dm != Config.dummyExpected) ++ bitOf (sn == 0)
    seq := bitOf (sn.setWidth 4 == c.nextId) }

/-- `ok = (flags == 0)` (R124). -/
def Verdict.ok (v : Verdict) : Bool := v.flags == 0

/-- The string number expected after `sn`: its successor, 15 followed by 1 (R125). -/
def successor (sn : BitVec 4) : BitVec 4 := if sn = Config.snMax then 1 else sn + 1

/-- The error codes (R56). -/
def Violation.code : Violation → BitVec 3
  | .illegalCommand => 1
  | .notInitialised => 2
  | .badWidth => 3
  | .badIndex => 4
  | .fieldOverrun => 5
  | .cursorRange => 6

/-- The status codes (R55). -/
def Status.code : Status → BitVec 2
  | .none => 0
  | .stringReady => 1
  | .syncLoss => 2

/-- The field `err_code`: 0 when the command succeeded (R54). -/
def Response.errCode (r : Response) : BitVec 3 :=
  match r.violation with
  | none => 0
  | some v => v.code

/-- The field `err`: 1 exactly when `err_code` is not 0 (R54). -/
def Response.err (r : Response) : Bit := bitOf (r.errCode != 0)

/-- The packed record of 46 bits (R54). -/
def Response.pack (r : Response) : BitVec 46 :=
  r.err ++ r.errCode ++ r.seqMatch ++ r.lossFlags ++ r.status.code ++ r.stringId ++ r.data

end Sys2Proof.Machine
end

