-- ==== Sys2Proof/Machine/Line.lean ====
section
/-! DEFINITION. The LineDecoder, the first stage of UPD while collecting (spec/41_line_decoder.md). -/

namespace Sys2Proof.Machine

/-- `LineDecode(b)` (R92): a first half sets MC and yields nothing; a second half clears MC and yields the data bit
`b XOR PHASE`, whatever the first half was (R94). -/
def lineDecode (c : Channel) (b : Bit) : Channel × Option Bit :=
  if c.mc = 0 then ({ c with mc := 1 }, none) else ({ c with mc := 0 }, some (b ^^^ c.phase))

end Sys2Proof.Machine
end

