-- ==== Sys2Proof/Machine/Sync.lean ====
section
/-! DEFINITION. The SyncEngine: the command UPD (spec/42_sync_engine.md R100 to R112). -/

namespace Sys2Proof.Machine

/-- UPD in SEARCH (R101 to R103): shift, compare, and on a match the lock. The response is NONE either way. -/
def searchBit (p : Config.Params) (b : Bit) (c : Channel) : Channel :=
  if isTimeMark (shiftedTm c.tm b) then { c with tm := shiftedTm c.tm b }.lock p
  else { c with tm := shiftedTm c.tm b }

/-- The end of a UPD that wrote slot 95 (R106): the string check on the window with that bit, and R125 or R126. -/
def completeString (p : Config.Params) (c : Channel) : Channel × Response :=
  if (stringCheck p c).ok then
    ({ c with nextId := successor (stringCheck p c).sn },
      { status := .stringReady, stringId := (stringCheck p c).sn, seqMatch := (stringCheck p c).seq })
  else
    (c.syncLoss,
      { status := .syncLoss, stringId := (stringCheck p c).sn, lossFlags := (stringCheck p c).flags,
        seqMatch := (stringCheck p c).seq })

/-- A data bit goes to slot HEAD (R104, R105), after the cursor's bounds check (R111). -/
def writeDataBit (p : Config.Params) (d : Bit) (c : Channel) : Except Violation (Channel × Response) :=
  if 95 < c.head.toNat then .error .cursorRange
  else if c.head.toNat < 95 then
    .ok ({ c with win := memWrite c.win c.head.toNat d, head := c.head + 1 }, {})
  else .ok (completeString p { c with win := memWrite c.win c.head.toNat d, head := 0 })

/-- UPD in COLLECT (R100): the line decoder, and for a second half the data bit's write. -/
def collectBit (p : Config.Params) (b : Bit) (c : Channel) : Except Violation (Channel × Response) :=
  match lineDecode c b with
  | (c', none) => .ok (c', {})
  | (c', some d) => writeDataBit p d c'

/-- UPD (R100) on the registers of one instance: exactly one of the three arms, chosen by STATE before the command. -/
def updChannel (p : Config.Params) (b : Bit) (c : Channel) : Except Violation (Channel × Response) :=
  match c.mode with
  | .invalid => .error .notInitialised
  | .search => .ok (searchBit p b c, {})
  | .collect => collectBit p b c

/-- UPD b (R100). -/
def execUpd (b : Bit) (s : State) : Host.Outcome State Fault Refusal :=
  .next (deliver s (updChannel Config.params b s.chan))

end Sys2Proof.Machine
end

