-- ==== Sys2Proof/Machine/Dispatch.lean ====
section
/-! DEFINITION. One arm per command, each one direct call of its meaning. -/

namespace Sys2Proof.Machine

def exec (i : Instr) (s : State) : Host.Outcome State Fault Refusal :=
  match i with
  | .nop => Sys2Proof.Machine.execNop s
  | .init => Sys2Proof.Machine.execInit s
  | .upd b => Sys2Proof.Machine.execUpd b s
  | .ext bitIndex nBits => Sys2Proof.Machine.execExt bitIndex nBits s
  | .rds sel => Sys2Proof.Machine.execRds sel s

end Sys2Proof.Machine
end

