-- ==== Sys2Proof/Machine/Step.lean ====
section
/-! DEFINITION. One step: the next input is taken and acted on by the instance it is addressed to. There is no program counter and
no program store (spec/10_state.md R23); the inbox stands in their place (log entries 1, 2, 5, 6, 10). -/

namespace Sys2Proof.Machine

/-- One step of the machine. With no input the machine waits unchanged (R160, R180; log entry 2). -/
def step (s : State) : Host.Outcome State Fault Refusal :=
  match s.takeInput with
  | none => .next s
  | some (.powerOnReset k, s') =>
    match s'.address k with
    | none => .fault .noSuchInstance
    | some t => .next (powerOn t)
  | some (.command k c, s') =>
    match s'.address k with
    | none => .fault .noSuchInstance
    | some t =>
      match decode c with
      | .ok i => exec i t
      | .error _ => .next (illegalCommand t)

/-- `s` with the command word `w` sent next to the addressed instance (log entry 1). -/
def State.withFetchWord (s : State) (_nbits w : Nat) : State := s.sendFirst (BitVec.ofNat 16 w)

end Sys2Proof.Machine
end

