-- ==== Sys2Proof/Machine/Assembler.lean ====
section
/-! DEFINITION. The pseudo-instructions of spec/30_encoding.md R63, each as the list of commands it expands to. -/

namespace Sys2Proof.Machine

/-- The bits of the time mark in the order in which they arrive (R59, R63 `UPDTM`). -/
def timeMarkBits : List Bit :=
  [1, 1, 1, 1, 1, 0, 0, 0, 1, 1, 0, 1, 1, 1, 0, 1, 0, 1, 0, 0, 0, 0, 1, 0, 0, 1, 0, 1, 1, 0]

/-- `UPDS "b1 b2 ... bk"` (R63). -/
def upds (bits : List Bit) : List Instr := bits.map Instr.upd

/-- `UPDTM` (R63): the time mark, 30 commands. -/
def updTm : List Instr := upds timeMarkBits

/-- The raw bits of data bits sent as well-formed pairs for phase `p` (R60, R63): `1 - (d XOR p)` and then `d XOR p`. -/
def lineCoded (p : Bit) : List Bit → List Bit
  | [] => []
  | d :: ds => ~~~(d ^^^ p) :: (d ^^^ p) :: lineCoded p ds

/-- `UPDD.p "d1 d2 ... dk"` (R63). -/
def updd (p : Bit) (dataBits : List Bit) : List Instr := upds (lineCoded p dataBits)

/-- The 96 data bits `s0 ... s95` of `UPDW` (R63): `sk` is bit `k % 32` of word `w(k / 32)`. -/
def windowDataBits (w0 w1 w2 : Word) : List Bit :=
  (List.range 96).map fun k =>
    BitVec.ofBool ((if k / 32 = 0 then w0 else if k / 32 = 1 then w1 else w2).getLsbD (k % 32))

/-- `UPDW.p w0, w1, w2` (R63): 192 commands. -/
def updw (p : Bit) (w0 w1 w2 : Word) : List Instr := updd p (windowDataBits w0 w1 w2)

end Sys2Proof.Machine
end

