-- ==== Sys2Proof/Safety.lean ====
section
/-! DEFINITION. What statements speak of: the reachable-state invariant of the registers (spec/10_state.md R12 to R21), the fields
of a completed string (spec/43_string_check.md R121 to R124), and a run of UPD commands (spec/70_reset_and_hazards.md R172). -/

namespace Sys2Proof.Machine

/-- The register invariant of one instance: HEAD in 0..95 (R18), TM below 2^30 (R12), STATE never 3 (R17); the power-on values
while INVALID (R26); while SEARCH everything the search does not use is 0 (R21) and TM is not the pattern; while COLLECT TM
holds the pattern (R12) and PHASE the value latched at the lock (R16); NEXT_ID in 1..15 once INIT has run (R14). -/
abbrev Channel.Inv (c : Channel) : Prop :=
  c.head.toNat ≤ 95 ∧ c.tm.toNat < 2 ^ 30 ∧ c.st ≠ 3 ∧
  (c.st = 0 → c = Channel.reset) ∧
  (c.st = 1 → c.head = 0 ∧ c.mc = 0 ∧ c.phase = 0 ∧ c.win = ⟨0, 0, 0⟩ ∧ c.tm ≠ 0x3E375096) ∧
  (c.st = 2 → c.tm = 0x3E375096 ∧ c.phase = Config.phaseAtLock) ∧
  (c.st ≠ 0 → 1 ≤ c.nextId.toNat)

/-- Every instance meets the register invariant. -/
abbrev State.Inv (s : State) : Prop := ∀ c ∈ s.channels, c.Inv

/-- R121: the string number of a window, bits 19:16 of `W[2]`. -/
def stringNumber (w : Window) : BitVec 4 := w.w2.extractLsb' 16 4

/-- R122: the dummy bit of a window, bit 20 of `W[2]`. -/
def dummyBit (w : Window) : Bit := w.w2.extractLsb' 20 1

/-- R124: the three checks on a completed window, with NEXT_ID as it was before the command. -/
abbrev stringPasses (w : Window) (nextId : BitVec 4) : Prop :=
  stringNumber w ≠ 0 ∧ dummyBit w = 0 ∧ Config.hook (w.w2 ++ w.w1 ++ w.w0) nextId = 1

/-- One bit of a window was written and the other 95 are as before (R37): each of the 96 bits, read on its own. -/
abbrev wroteBit (w w' : Window) (addr : Nat) (d : Bit) : Prop :=
  ∀ a < 96, memBit w' a = if a = addr then d else memBit w a

/-- The outcome of commands given to the addressed instance one after another (R50, R180). -/
def runCommands : List Instr → State → Host.Outcome State Fault Refusal
  | [], s => .next s
  | i :: is, s =>
    match exec i s with
    | .next t => runCommands is t
    | .fault r => .fault r
    | .refused r => .refused r

/-- The outcome of feeding raw bits to the addressed instance, one UPD per bit, in order (R172 (3)). -/
def feed (bits : List Bit) (s : State) : Host.Outcome State Fault Refusal := runCommands (upds bits) s

/-- The number a list of raw bits spells, first bit most significant: the value an accumulator of unlimited width would hold. -/
def bitsValue : List Bit → Nat
  | [] => 0
  | b :: bs => b.toNat * 2 ^ bs.length + bitsValue bs

/-- A run without a host error: no response on the record carries a contract violation (R145 (a)). -/
def State.noViolation (s : State) : Bool := s.responses.all fun x => x.2.violation.isNone

end Sys2Proof.Machine
end

