-- ==== Sys2Proof/Certificates/Slice0/Obligations.lean ====
section
/-! DEFINITION. The statements about the machine, from the numbered rules of spec/. `(s.before.length, r) :: s.responses` is the
run's record with the response `r` of the addressed instance added. -/

open Sys2Proof Sys2Proof.Machine

/-! ### Command words (spec/30_encoding.md) -/

/-- R51, R52, R62: words written out from the command table, one and more for each command. -/
def Obligations.SpecWordsDecodeToTheirCommands : Prop :=
  decode 0x0000 = .ok .nop ∧ decode 0x2000 = .ok .init ∧ decode 0x4000 = .ok (.upd 0) ∧ decode 0x4001 = .ok (.upd 1) ∧
  decode 0x6C44 = .ok (.ext 49 4) ∧ decode 0x7FFF = .ok (.ext 127 63) ∧ decode 0x8003 = .ok (.rds 3)

/-- R51, R52, R62: decoding the word of a well-formed command gives the command back, whatever its operands. -/
def Obligations.DecodeOfEncodeIsTheCommand : Prop :=
  ∀ i : Instr, wellFormed i = true → decode (encode i) = .ok i

/-- R51, R52, R62: a word that decodes is the word of the command it decodes to, and that command is well-formed. -/
def Obligations.EncodeOfDecodeIsTheWord : Prop :=
  ∀ (w : CommandWord) (i : Instr), decode w = .ok i → wellFormed i = true ∧ encode i = w

/-- R51: at most one row of the command table matches a word. -/
def Obligations.OpcodeRowsAreDisjoint : Prop :=
  ∀ (w : CommandWord) (r₁ r₂ : OpcodeRow), r₁ ∈ opcodeRows → r₂ ∈ opcodeRows →
    w &&& r₁.mask = r₁.pattern → w &&& r₂.mask = r₂.pattern → r₁ = r₂

/-- R53: exactly these words match no row and are refused by the decoder; every word with opcode 011 decodes. -/
def Obligations.ReservedWordsAreExactlyTheIllegalOnes : Prop :=
  ∀ w : CommandWord,
    ((∃ e, decode w = .error e) ↔
      5 ≤ (w.extractLsb' 13 3).toNat ∨
      (w.extractLsb' 13 3 = 0 ∧ w.extractLsb' 0 13 ≠ 0) ∨ (w.extractLsb' 13 3 = 1 ∧ w.extractLsb' 0 13 ≠ 0) ∨
      (w.extractLsb' 13 3 = 2 ∧ w.extractLsb' 1 12 ≠ 0) ∨ (w.extractLsb' 13 3 = 4 ∧ w.extractLsb' 3 10 ≠ 0)) ∧
    (w.extractLsb' 13 3 = 3 → decode w = .ok (.ext (w.extractLsb' 6 7).toNat (w.extractLsb' 0 6).toNat))

/-- R54, R55, R56: where each field of the response record stands in its 46 bits, and the codes of statuses and errors. -/
def Obligations.ResponseRecordIsPackedByItsTable : Prop :=
  ∀ r : Response,
    r.pack.extractLsb' 0 32 = r.data ∧ r.pack.extractLsb' 32 4 = r.stringId ∧
    r.pack.extractLsb' 36 2 = (match r.status with
      | .none => 0
      | .stringReady => 1
      | .syncLoss => 2) ∧
    r.pack.extractLsb' 38 3 = r.lossFlags ∧ r.pack.extractLsb' 41 1 = r.seqMatch ∧
    r.pack.extractLsb' 42 3 = (match r.violation with
      | none => 0
      | some .illegalCommand => 1
      | some .notInitialised => 2
      | some .badWidth => 3
      | some .badIndex => 4
      | some .fieldOverrun => 5
      | some .cursorRange => 6) ∧
    r.pack.extractLsb' 45 1 = if r.violation = none then 0 else 1

/-! ### Steps -/

/-- R50, R41: a step on a command word for an instance runs the command it decodes to on that instance, the inbox one shorter. -/
def Obligations.StepRunsTheDecodedCommand : Prop :=
  ∀ (s : State) (w : CommandWord) (i : Instr) (rest : List Input) (pre post : List Channel) (c : Channel),
    s.before ++ s.chan :: s.after = pre ++ c :: post → s.inbox = .command pre.length w :: rest → decode w = .ok i →
    step s = exec i { before := pre, chan := c, after := post, inbox := rest, responses := s.responses }

/-- R53, R147: a step on a word that is no command writes no register and answers ILLEGAL_COMMAND, in every state. -/
def Obligations.StepAnswersIllegalWords : Prop :=
  ∀ (s : State) (w : CommandWord) (e : DecodeError) (rest : List Input) (pre post : List Channel) (c : Channel),
    s.before ++ s.chan :: s.after = pre ++ c :: post → s.inbox = .command pre.length w :: rest → decode w = .error e →
    step s = .next
      { before := pre, chan := c, after := post, inbox := rest
        responses := (pre.length, { violation := some .illegalCommand }) :: s.responses }

/-- R26, R170, and the model's choice of log entry 10 (a power-on reset is an input of one instance): the instance's registers
take the power-on values, every other instance keeps its own, and nothing is answered. -/
def Obligations.StepPowersAnInstanceOn : Prop :=
  ∀ (s : State) (rest : List Input) (pre post : List Channel) (c : Channel),
    s.before ++ s.chan :: s.after = pre ++ c :: post → s.inbox = .powerOnReset pre.length :: rest →
    step s = .next
      { before := pre
        chan := { st := 0, head := 0, tm := 0, nextId := 0, mc := 0, phase := 0, win := { w0 := 0, w1 := 0, w2 := 0 } }
        after := post, inbox := rest, responses := s.responses }

/-- The model's choices of log entries 2 and 5: a step never refuses, faults exactly when the next input names an instance that
does not exist, and without input leaves everything as it is (R160, R180). -/
def Obligations.StepStopsOnlyForAMissingInstance : Prop :=
  ∀ s : State,
    (s.inbox = [] → step s = .next s) ∧ (∀ r, step s ≠ .refused r) ∧
    (∀ f, step s = .fault f ↔ ∃ x rest, s.inbox = x :: rest ∧ s.before.length + 1 + s.after.length ≤ x.target)

/-! ### Reset, INIT, NOP, RDS (spec/10_state.md, spec/44_init_control.md) -/

/-- R26: every register after power-on reset (of every instance, for every number of instances), after INIT, and after a sync
loss. -/
def Obligations.RegisterValuesAfterResetInitAndSyncLoss : Prop :=
  (∀ more : Nat, (State.resetWith more).channels.length = more + 1 ∧
    ∀ c ∈ (State.resetWith more).channels,
      c.st = 0 ∧ c.head = 0 ∧ c.tm = 0 ∧ c.nextId = 0 ∧ c.mc = 0 ∧ c.phase = 0 ∧ c.win.w0 = 0 ∧ c.win.w1 = 0 ∧ c.win.w2 = 0) ∧
  (∀ s : State, ∃ t, exec .init s = .next t ∧ t.chan.st = 1 ∧ t.chan.head = 0 ∧ t.chan.tm = 0 ∧ t.chan.nextId = 1 ∧
    t.chan.mc = 0 ∧ t.chan.phase = 0 ∧ t.chan.win.w0 = 0 ∧ t.chan.win.w1 = 0 ∧ t.chan.win.w2 = 0) ∧
  (∀ (s t : State) (b : Bit), s.chan.st = 2 → exec (.upd b) s = .next t → t.chan.st = 1 →
    t.chan.head = 0 ∧ t.chan.tm = 0 ∧ t.chan.nextId = s.chan.nextId ∧ t.chan.mc = 0 ∧ t.chan.phase = 0 ∧
    t.chan.win.w0 = 0 ∧ t.chan.win.w1 = 0 ∧ t.chan.win.w2 = 0)

/-- R136: NOP, the word 0x0000, answers an empty response and nothing else, in every state. -/
def Obligations.NopOnlyAnswers : Prop :=
  decode 0x0000 = .ok .nop ∧
  ∀ s : State, exec .nop s = .next { s with responses := (s.before.length, {}) :: s.responses }

/-- R135: INIT, the word 0x2000, gives the same registers from every state with an empty response; it is idempotent; no other command changes a
register while STATE is INVALID; RDS STATE and RDS NEXT_ID after it return 1. -/
def Obligations.InitGivesAConstantAndAloneLeavesInvalid : Prop :=
  decode 0x2000 = .ok .init ∧
  (∀ s : State, exec .init s = .next
    { s with
      chan := { st := 1, head := 0, tm := 0, nextId := 1, mc := 0, phase := 0, win := { w0 := 0, w1 := 0, w2 := 0 } }
      responses := (s.before.length, {}) :: s.responses }) ∧
  (∀ s t u : State, exec .init s = .next t → exec .init t = .next u → u.chan = t.chan) ∧
  (∀ (i : Instr) (s t : State), s.chan.st = 0 ∨ s.chan.st = 3 → exec i s = .next t → i ≠ .init → t.chan = s.chan) ∧
  (∀ s t : State, exec .init s = .next t →
    exec (.rds 0) t = .next { t with responses := (t.before.length, { data := 1 }) :: t.responses } ∧
    exec (.rds 3) t = .next { t with responses := (t.before.length, { data := 1 }) :: t.responses })

/-- R137: RDS sel, the word 0x8000 + sel, returns the selected register zero-extended and writes nothing, in every state. The premise leaves out RDS 0 at the
unused STATE code 3, which is the next statement's. -/
def Obligations.RdsReturnsTheSelectedRegister : Prop :=
  ∀ (s : State) (sel : BitVec 3), s.chan.st ≠ 3 ∨ sel ≠ 0 →
    decode (0x8000 + sel.setWidth 16) = .ok (.rds sel) ∧
    ∃ d : Word, exec (.rds sel) s = .next { s with responses := (s.before.length, { data := d }) :: s.responses } ∧
      (sel = 0 → d = s.chan.st.setWidth 32) ∧ (sel = 1 → d = s.chan.head.setWidth 32) ∧ (sel = 2 → d = s.chan.tm) ∧
      (sel = 3 → d = s.chan.nextId.setWidth 32) ∧
      (sel = 4 → d.getLsbD 0 = s.chan.mc.getLsbD 0 ∧ d.getLsbD 1 = s.chan.phase.getLsbD 0 ∧ d.toNat < 4) ∧
      (sel = 5 → d = s.chan.win.w0) ∧ (sel = 6 → d = s.chan.win.w1) ∧ (sel = 7 → d = s.chan.win.w2)

/-- The model's choice of log entry 9: at the unused STATE code 3, RDS 0 returns the two bits as they stand. -/
def Obligations.RdsOfTheUnusedStateCode : Prop :=
  ∀ s : State, s.chan.st = 3 →
    exec (.rds 0) s = .next { s with responses := (s.before.length, { data := 3 }) :: s.responses }

/-! ### The window and EXT (spec/20_memory.md, spec/40_extract.md) -/

/-- R31: bit index i is bit (i-1) % 32 of W[(i-1) / 32]: what `Extract(W, i, 1)` reads, with W96 = W[2] ++ W[1] ++ W[0] (R32). -/
def Obligations.BitIndexNamesItsWordAndPosition : Prop :=
  ∀ (w : Window) (i : Nat), 1 ≤ i → i ≤ 96 →
    (extract w i 1).toNat =
      ((if (i - 1) / 32 = 0 then w.w0 else if (i - 1) / 32 = 1 then w.w1 else w.w2).getLsbD ((i - 1) % 32)).toNat ∧
    memBit w (i - 1) = BitVec.ofBool ((w.w2 ++ w.w1 ++ w.w0).getLsbD (i - 1))

/-- R37: a write sets or clears the addressed bit and leaves the other 95; the whole-window clear leaves three zero words. -/
def Obligations.MemWriteChangesOneBit : Prop :=
  (∀ (w : Window) (addr a : Nat) (v : Bit), addr ≤ 95 → a ≤ 95 →
    memBit (memWrite w addr v) a = if a = addr then v else memBit w a) ∧
  clearedWindow = { w0 := 0, w1 := 0, w2 := 0 }

/-- R80: EXT, with its operands in bits 12:6 and 5:0 of its word, tests STATE, width, index and fit in that order and answers the first violation; a legal request answers the field
(in the closed form of R84). No register is written in any case. -/
def Obligations.ExtAnswersTheFieldOrTheFirstViolation : Prop :=
  (∀ i n : Nat, i < 128 → n < 64 → decode (BitVec.ofNat 16 (0x6000 + 64 * i + n)) = .ok (.ext i n)) ∧
  ∀ (s : State) (i n : Nat), exec (.ext i n) s = .next
    { s with responses := (s.before.length,
        if s.chan.st = 0 ∨ s.chan.st = 3 then { violation := some .notInitialised }
        else if n < 1 ∨ 32 < n then { violation := some .badWidth }
        else if i < 1 ∨ 96 < i then { violation := some .badIndex }
        else if 96 < i + n - 1 then { violation := some .fieldOverrun }
        else { data := BitVec.ofNat 32 ((s.chan.win.w2.toNat * 2 ^ 64 + s.chan.win.w1.toNat * 2 ^ 32 +
                 s.chan.win.w0.toNat) / 2 ^ (i - 1) % 2 ^ n) }) :: s.responses }

/-- R84: the two-case form of R82 and R83 is the closed form on every legal request. -/
def Obligations.ExtractTwoCasesAgreeWithTheClosedForm : Prop :=
  ∀ (w : Window) (i n : Nat), 1 ≤ n → n ≤ 32 → 1 ≤ i → i + n - 1 ≤ 96 →
    extract w i n = memRead w (i - 1) n ∧
    (extract w i n).toNat = (w.w2.toNat * 2 ^ 64 + w.w1.toNat * 2 ^ 32 + w.w0.toNat) / 2 ^ (i - 1) % 2 ^ n

/-- R87: bit j of the result is the window bit at index i + j for j < n, and bits 31..n are 0. -/
def Obligations.ExtractIsRightAligned : Prop :=
  ∀ (w : Window) (i n j : Nat), 1 ≤ n → n ≤ 32 → 1 ≤ i → i + n - 1 ≤ 96 → j < 32 →
    (extract w i n).getLsbD j = if j < n then (w.w2 ++ w.w1 ++ w.w0).getLsbD (i - 1 + j) else false

/-- R88: a value written at a field's place is extracted unchanged, whatever the rest of the window holds. -/
def Obligations.ExtractRoundTrip : Prop :=
  ∀ (w : Window) (x : BitVec 96) (i n v : Nat), 1 ≤ n → n ≤ 32 → 1 ≤ i → i + n - 1 ≤ 96 → v < 2 ^ n →
    w.w2 ++ w.w1 ++ w.w0 =
      (x &&& ~~~(BitVec.ofNat 96 (2 ^ n - 1) <<< (i - 1))) ||| (BitVec.ofNat 96 v <<< (i - 1)) →
    (extract w i n).toNat = v

/-- R33: a field read in two neighbouring parts is the field read at once, the part at the lower index the less significant. -/
def Obligations.AdjacentFieldsAreTheLowAndHighParts : Prop :=
  ∀ (w : Window) (i n m : Nat), 1 ≤ n → 1 ≤ m → n + m ≤ 32 → 1 ≤ i → i + (n + m) - 1 ≤ 96 →
    (extract w i (n + m)).toNat = (extract w i n).toNat + 2 ^ n * (extract w (i + n) m).toNat

/-- R81: in SEARCH and COLLECT, EXT answers without error exactly when 1 <= n <= 32, 1 <= i and i + n - 1 <= 96. -/
def Obligations.ExtSucceedsExactlyOnLegalRequests : Prop :=
  ∀ (s : State) (i n : Nat), s.chan.st = 1 ∨ s.chan.st = 2 →
    ∃ r : Response, exec (.ext i n) s = .next { s with responses := (s.before.length, r) :: s.responses } ∧
      (r.violation = none ↔ 1 ≤ n ∧ n ≤ 32 ∧ 1 ≤ i ∧ i + n - 1 ≤ 96)

/-- R85, R136, R137: NOP, EXT and RDS write no register of any instance, and every bit of the window reads as before. -/
def Obligations.NopExtAndRdsWriteNothing : Prop :=
  ∀ (i : Instr) (s t : State), (i = .nop ∨ (∃ k n, i = .ext k n) ∨ ∃ sel, i = .rds sel) → exec i s = .next t →
    t.chan = s.chan ∧ t.before = s.before ∧ t.after = s.after ∧ t.inbox = s.inbox ∧
    ∀ a < 96, memBit t.chan.win a = memBit s.chan.win a

/-! ### UPD while searching (spec/42_sync_engine.md) -/

/-- R109, R17: UPD while STATE is INVALID (code 0 or 3) raises NOT_INITIALISED and writes nothing. -/
def Obligations.UpdBeforeInitRaisesNotInitialised : Prop :=
  ∀ (s : State) (b : Bit), s.chan.st = 0 ∨ s.chan.st = 3 →
    exec (.upd b) s = .next
      { s with responses := (s.before.length, { violation := some .notInitialised }) :: s.responses }

/-- R101: in SEARCH the raw bit is always shifted into TM at bit 0 under the 30-bit mask, and unless the new TM is the pattern
nothing else is written. -/
def Obligations.UpdInSearchShiftsTheRawBit : Prop :=
  (∀ (s : State) (b : Bit), s.chan.st = 1 → ∃ t, exec (.upd b) s = .next t ∧
    t.chan.tm = ((s.chan.tm <<< 1) ||| b.setWidth 32) &&& 0x3FFFFFFF) ∧
  ∀ (s : State) (b : Bit), s.chan.st = 1 →
    ((s.chan.tm <<< 1) ||| b.setWidth 32) &&& 0x3FFFFFFF ≠ 0x3E375096 →
    exec (.upd b) s = .next
      { s with
        chan := { s.chan with tm := ((s.chan.tm <<< 1) ||| b.setWidth 32) &&& 0x3FFFFFFF }
        responses := (s.before.length, {}) :: s.responses }

/-- R103: when the new TM is the pattern, STATE becomes COLLECT, HEAD, MC and the window 0, PHASE the parameter; TM keeps the
pattern, NEXT_ID is not written, the response is NONE, and RDS STATE then answers 2. When it is not, STATE stays SEARCH. -/
def Obligations.UpdLocksOnTheTimeMark : Prop :=
  (∀ (s : State) (b : Bit), s.chan.st = 1 → ((s.chan.tm <<< 1) ||| b.setWidth 32) &&& 0x3FFFFFFF ≠ 0x3E375096 →
    ∃ t, exec (.upd b) s = .next t ∧ t.chan.st = 1) ∧
  (∀ s : State, s.chan.st = 2 → exec (.rds 0) s = .next
    { s with responses := (s.before.length, { data := 2 }) :: s.responses }) ∧
  ∀ (s : State) (b : Bit), s.chan.st = 1 →
    ((s.chan.tm <<< 1) ||| b.setWidth 32) &&& 0x3FFFFFFF = 0x3E375096 →
    exec (.upd b) s = .next
      { s with
        chan := { st := 2, head := 0, tm := 0x3E375096, nextId := s.chan.nextId, mc := 0, phase := Config.phaseAtLock
                  win := { w0 := 0, w1 := 0, w2 := 0 } }
        responses := (s.before.length, {}) :: s.responses }

/-- R102, first clause: thirty UPD carrying the time mark lock from every SEARCH state, whatever was received before, and not
before the thirtieth. -/
def Obligations.TimeMarkAlwaysLocksAtItsThirtiethBit : Prop :=
  ∀ s : State, s.chan.st = 1 →
    (∃ t, feed timeMarkBits s = .next t ∧ t.chan.st = 2 ∧ t.chan.head = 0 ∧ t.chan.tm = 0x3E375096 ∧ t.chan.mc = 0 ∧
      t.chan.win = { w0 := 0, w1 := 0, w2 := 0 } ∧ t.chan.nextId = s.chan.nextId) ∧
    ∀ k < 30, ∃ u, feed (timeMarkBits.take k) s = .next u ∧ u.chan.st = 1

/-- R102: with TM cleared and the search never left since, a UPD locks exactly when the last 30 raw bits, padded with leading
zeros, are the pattern. -/
def Obligations.LockIffTheLastThirtyBitsAreTheTimeMark : Prop :=
  ∀ (s : State) (l : List Bit) (b : Bit), s.chan.st = 1 → s.chan.tm = 0 →
    (∀ k ≤ l.length, ∃ u, feed (l.take k) s = .next u ∧ u.chan.st = 1) →
    ∃ t u, feed l s = .next t ∧ exec (.upd b) t = .next u ∧
      (u.chan.st = 2 ↔ bitsValue (l ++ [b]) % 2 ^ 30 = 0x3E375096)

/-- R151, R102: from a cleared TM (as INIT and a sync loss leave it) no string completes within 30 + 192 - 1 raw bits: every
response until then is NONE. -/
def Obligations.NoCompletionWithin221BitsOfAClear : Prop :=
  ∀ (s : State) (l : List Bit), s.chan.st = 1 → s.chan.tm = 0 → l.length ≤ 221 →
    ∃ t rs, feed l s = .next t ∧ t.responses = rs ++ s.responses ∧ ∀ x ∈ rs, x.2 = ({} : Response)

/-! ### UPD while collecting (spec/41_line_decoder.md, spec/42_sync_engine.md, spec/43_string_check.md) -/

/-- R92, R110: the first half of a pair sets MC and does nothing else; its value does not matter. -/
def Obligations.FirstHalfOnlySetsMc : Prop :=
  ∀ (s : State) (b : Bit), s.chan.st = 2 → s.chan.mc = 0 →
    exec (.upd b) s = .next
      { s with chan := { s.chan with mc := 1 }, responses := (s.before.length, {}) :: s.responses }

/-- R92, R104, R105: the second half of a pair writes the data bit b XOR PHASE to slot HEAD, setting or clearing it, leaves the
other 95 bits, and below slot 95 increments HEAD; every other register keeps its value and the response is NONE. -/
def Obligations.SecondHalfWritesTheDataBitAtHead : Prop :=
  ∀ (s : State) (b : Bit), s.chan.st = 2 → s.chan.mc = 1 → s.chan.head.toNat < 95 →
    ∃ w, wroteBit s.chan.win w s.chan.head.toNat (b ^^^ s.chan.phase) ∧
      exec (.upd b) s = .next
        { s with
          chan := { s.chan with mc := 0, win := w, head := BitVec.ofNat 7 (s.chan.head.toNat + 1) }
          responses := (s.before.length, {}) :: s.responses }

/-- R125, R126: the second half that fills slot 95 completes the string: on the window with that bit, either the checks pass
(STRING_READY, NEXT_ID the successor of the string number, everything else kept) or they fail (SYNC_LOSS with the failed checks,
everything but NEXT_ID cleared, STATE SEARCH). -/
def Obligations.CompletedStringIsReportedOrLosesSync : Prop :=
  ∀ (s : State) (b : Bit), s.chan.st = 2 → s.chan.mc = 1 → s.chan.head = 95 →
    ∃ w, wroteBit s.chan.win w 95 (b ^^^ s.chan.phase) ∧
      exec (.upd b) s = .next
        (if stringPasses w s.chan.nextId then
          { s with
            chan := { s.chan with
                      head := 0, mc := 0, win := w
                      nextId := if stringNumber w = 15 then 1 else stringNumber w + 1 }
            responses := (s.before.length,
              { status := .stringReady, stringId := stringNumber w
                seqMatch := if stringNumber w = s.chan.nextId then 1 else 0 }) :: s.responses }
        else
          { s with
            chan := { st := 1, head := 0, tm := 0, nextId := s.chan.nextId, mc := 0, phase := 0
                      win := { w0 := 0, w1 := 0, w2 := 0 } }
            responses := (s.before.length,
              { status := .syncLoss, stringId := stringNumber w
                lossFlags := (if Config.hook (w.w2 ++ w.w1 ++ w.w0) s.chan.nextId = 0 then 1#1 else 0#1) ++ dummyBit w ++
                  (if stringNumber w = 0 then 1#1 else 0#1)
                seqMatch := if stringNumber w = s.chan.nextId then 1 else 0 }) :: s.responses })

/-- R111: a data bit ready with HEAD above 95 raises CURSOR_RANGE and nothing is written, MC included. -/
def Obligations.CursorOutOfRangeUndoesTheCommand : Prop :=
  ∀ (s : State) (b : Bit), s.chan.st = 2 → s.chan.mc = 1 → 95 < s.chan.head.toNat →
    exec (.upd b) s = .next
      { s with responses := (s.before.length, { violation := some .cursorRange }) :: s.responses }

/-- R121, R122: the string check reads bit positions 16..19 and 20 of W[2], and fails on them exactly when the string number is 0
and when the dummy bit is 1. -/
def Obligations.StringCheckReadsTheNumberAndTheDummyBit : Prop :=
  ∀ (p : Config.Params) (c : Channel),
    extract c.win 81 4 = (c.win.w2 >>> 16) &&& 0xF ∧ (stringCheck p c).sn = c.win.w2.extractLsb' 16 4 ∧
    extract c.win 85 1 = (c.win.w2 >>> 20) &&& 1 ∧
    ((stringCheck p c).flags.getLsbD 0 = true ↔ (c.win.w2 >>> 16) &&& 0xF = 0) ∧
    ((stringCheck p c).flags.getLsbD 1 = true ↔ (c.win.w2 >>> 20) &&& 1 = 1)

/-- R57: a completed string answers each of the three checks in its own bit of the loss flags, whether or not another failed; and
a response has the status SYNC_LOSS exactly when its loss flags are not 0. -/
def Obligations.LossFlagsReportEveryFailedCheck : Prop :=
  (∀ (s : State) (b : Bit), s.chan.st = 2 → s.chan.mc = 1 → s.chan.head = 95 →
    ∃ w t r, wroteBit s.chan.win w 95 (b ^^^ s.chan.phase) ∧ exec (.upd b) s = .next t ∧
      t.responses = (s.before.length, r) :: s.responses ∧
      (r.lossFlags.getLsbD 0 = true ↔ stringNumber w = 0) ∧
      (r.lossFlags.getLsbD 1 = true ↔ dummyBit w ≠ Config.dummyExpected.setWidth 1) ∧
      (r.lossFlags.getLsbD 2 = true ↔ Config.hook (w.w2 ++ w.w1 ++ w.w0) s.chan.nextId = 0)) ∧
  (∀ (i : Instr) (s : State), ∃ (c : Channel) (r : Response),
    exec i s = .next { s with chan := c, responses := (s.before.length, r) :: s.responses } ∧
    (r.status = .syncLoss ↔ r.lossFlags ≠ 0))

/-- R60, R94: two raw bits of a pair leave the same state whatever the first of them was, equal halves included. -/
def Obligations.FirstHalfNeverEntersTheResult : Prop :=
  ∀ (s : State) (h h' b : Bit), s.chan.st = 2 → s.chan.mc = 0 → feed [h, b] s = feed [h', b] s

/-- R93, R107, R104: while UPD stays in COLLECT, STATE, TM and PHASE keep their values, and so does every bit of the window but
the one at HEAD; a first half leaves that one too. -/
def Obligations.UpdFrameWhileCollecting : Prop :=
  ∀ (s t : State) (b : Bit), s.chan.st = 2 → exec (.upd b) s = .next t → t.chan.st = 2 →
    t.chan.tm = s.chan.tm ∧ t.chan.phase = s.chan.phase ∧ t.before = s.before ∧ t.after = s.after ∧ t.inbox = s.inbox ∧
    (∀ a < 96, a ≠ s.chan.head.toNat → memBit t.chan.win a = memBit s.chan.win a) ∧
    (s.chan.mc = 0 → t.chan.head = s.chan.head ∧ t.chan.nextId = s.chan.nextId ∧ t.chan.win = s.chan.win)

/-- R95, R105: from the start of a string, exactly the 192nd UPD completes it: the 191 responses before it are NONE and it is
not; HEAD and MC are 0 again. -/
def Obligations.StringCompletesAtIts192ndBit : Prop :=
  ∀ (s : State) (l : List Bit), s.chan.st = 2 → s.chan.mc = 0 → s.chan.head = 0 → l.length = 192 →
    ∃ t r rs, feed l s = .next t ∧ t.responses = r :: (rs ++ s.responses) ∧ rs.length = 191 ∧ (∀ x ∈ rs, x.2 = ({} : Response)) ∧
      r.2.status ≠ .none ∧ t.chan.head = 0 ∧ t.chan.mc = 0

/-- R61, R92, R106: the 192 raw bits of a string put the data bit of pair a, its second half XOR PHASE, into slot a, for all 96
slots and whatever the window held; the string check then decides on exactly that window. -/
def Obligations.StringBitsFillTheWindowInOrder : Prop :=
  ∀ (s : State) (l : List Bit), s.chan.st = 2 → s.chan.mc = 0 → s.chan.head = 0 → l.length = 192 →
    ∃ t w, feed l s = .next t ∧ (∀ a < 96, memBit w a = l.getD (2 * a + 1) 0 ^^^ s.chan.phase) ∧
      if stringPasses w s.chan.nextId then t.chan.st = 2 ∧ t.chan.win = w
      else t.chan.st = 1 ∧ t.chan.win = { w0 := 0, w1 := 0, w2 := 0 }

/-- R173: a field at bit indices i..i+n-1 of a completed string answers EXT as at its completion as long as fewer than 2i UPD
commands have been issued since. -/
def Obligations.FieldsStayIntactInTheExtractionWindow : Prop :=
  ∀ (s : State) (l : List Bit) (i n : Nat), s.chan.st = 2 → s.chan.mc = 0 → s.chan.head = 0 →
    1 ≤ n → n ≤ 32 → 1 ≤ i → i + n - 1 ≤ 96 → l.length < 2 * i →
    ∃ t d, feed l s = .next t ∧
      exec (.ext i n) s = .next { s with responses := (s.before.length, { data := d }) :: s.responses } ∧
      exec (.ext i n) t = .next { t with responses := (t.before.length, { data := d }) :: t.responses }

/-- R63, R60: UPDW.p w0, w1, w2 at the start of a string, with PHASE = p, completes it with exactly these words in the window
just before the check. -/
def Obligations.UpdwLoadsTheWindow : Prop :=
  ∀ (s : State) (w0 w1 w2 : Word), s.chan.st = 2 → s.chan.mc = 0 → s.chan.head = 0 →
    ∃ t, runCommands (updw s.chan.phase w0 w1 w2) s = .next t ∧
      if stringPasses { w0 := w0, w1 := w1, w2 := w2 } s.chan.nextId then
        t.chan.st = 2 ∧ t.chan.win = { w0 := w0, w1 := w1, w2 := w2 }
      else t.chan.st = 1 ∧ t.chan.win = { w0 := 0, w1 := 0, w2 := 0 }

/-! ### The whole machine -/

/-- R147, R50: every command answers a next state with exactly one response of the addressed instance and touches no other
instance; if the response carries a violation, no register was written, err is 1 and every other field is 0. A word that is no command leaves the instances as they are and carries a violation too. -/
def Obligations.ViolationsLeaveNoTrace : Prop :=
  (∀ (s : State) (w : CommandWord) (e : DecodeError) (rest : List Input), s.inbox = .command s.before.length w :: rest →
    decode w = .error e → step s = .next
      { s with inbox := rest, responses := (s.before.length, { violation := some .illegalCommand }) :: s.responses }) ∧
  ∀ (i : Instr) (s : State), ∃ (c : Channel) (r : Response),
    exec i s = .next { s with chan := c, responses := (s.before.length, r) :: s.responses } ∧
    (r.err = 1 ↔ r.violation ≠ none) ∧
    (r.violation ≠ none →
      c = s.chan ∧ r.data = 0 ∧ r.stringId = 0 ∧ r.status = .none ∧ r.lossFlags = 0 ∧ r.seqMatch = 0)

/-- R110: the transition table, row by row: what each command writes, for each STATE and condition. -/
def Obligations.TransitionTable : Prop :=
  ∀ (i : Instr) (s t : State), exec i s = .next t →
    match i with
    | .nop => t.chan = s.chan
    | .ext _ _ => t.chan = s.chan
    | .rds _ => t.chan = s.chan
    | .init => t.chan = { st := 1, head := 0, tm := 0, nextId := 1, mc := 0, phase := 0, win := { w0 := 0, w1 := 0, w2 := 0 } }
    | .upd b =>
      (s.chan.st = 0 ∨ s.chan.st = 3 → t.chan = s.chan) ∧
      (s.chan.st = 1 → ∀ tm', tm' = ((s.chan.tm <<< 1) ||| b.setWidth 32) &&& 0x3FFFFFFF →
        t.chan = if tm' = 0x3E375096 then
            { s.chan with st := 2, tm := tm', head := 0, mc := 0, phase := Config.phaseAtLock, win := { w0 := 0, w1 := 0, w2 := 0 } }
          else { s.chan with tm := tm' }) ∧
      (s.chan.st = 2 → s.chan.mc = 0 → t.chan = { s.chan with mc := 1 }) ∧
      (s.chan.st = 2 → s.chan.mc = 1 → s.chan.head.toNat ≤ 95 →
        ∃ w, wroteBit s.chan.win w s.chan.head.toNat (b ^^^ s.chan.phase) ∧
          if s.chan.head.toNat < 95 then t.chan = { s.chan with mc := 0, win := w, head := s.chan.head + 1 }
          else if stringPasses w s.chan.nextId then ∃ n, t.chan = { s.chan with mc := 0, win := w, head := 0, nextId := n }
          else t.chan = { st := 1, head := 0, tm := 0, nextId := s.chan.nextId, mc := 0, phase := 0, win := { w0 := 0, w1 := 0, w2 := 0 } })

/-- R14: NEXT_ID is written by INIT and by a UPD that answers STRING_READY, and by nothing else. -/
def Obligations.OnlyInitAndASuccessfulStringWriteNextId : Prop :=
  ∀ (i : Instr) (s t : State) (r : Response), exec i s = .next t → t.responses = (s.before.length, r) :: s.responses →
    t.chan.nextId ≠ s.chan.nextId → i = .init ∨ ((∃ b, i = .upd b) ∧ r.status = .stringReady)

/-- R12 to R21: the register invariant holds in every instance after power-on reset, for every number of instances. -/
def Obligations.InvariantHoldsAtReset : Prop :=
  ∀ more : Nat, (State.resetWith more).Inv

/-- R12 to R21: every step keeps the register invariant of every instance. -/
def Obligations.EveryStepKeepsTheInvariant : Prop :=
  ∀ s t : State, s.Inv → step s = .next t → t.Inv

/-- R19, R18: where the invariant holds, no step answers CURSOR_RANGE. -/
def Obligations.CursorRangeIsNeverAnswered : Prop :=
  ∀ (s t : State) (k : Nat) (r : Response), s.Inv → step s = .next t → t.responses = (k, r) :: s.responses →
    r.violation ≠ some .cursorRange

/-- R145, R148: once initialised, where the invariant holds, a UPD adds no contract violation to the record, whatever its bit. -/
def Obligations.UpdNeverRaisesOnceInitialised : Prop :=
  ∀ (s : State) (b : Bit), s.chan.Inv → s.chan.st ≠ 0 → s.noViolation = true →
    ∃ t, exec (.upd b) s = .next t ∧ t.noViolation = true

/-- R28, for commands, legal or not: a step on an input for one instance leaves every other instance as it is (it writes none),
and what it leaves in that instance and answers is the same whatever the other instances hold (it reads none). That a power-on
reset too acts on one instance alone is the model's choice of log entry 10, no rule of the spec. -/
def Obligations.InstancesShareNothing : Prop :=
  (∀ (s t : State) (x : Input) (rest : List Input), s.inbox = x :: rest → step s = .next t →
    t.channels.length = s.channels.length ∧ ∀ j, j ≠ x.target → t.channels[j]? = s.channels[j]?) ∧
  (∀ (s s' t t' : State) (x : Input), s.inbox.head? = some x → s'.inbox.head? = some x →
    s.channels[x.target]? = s'.channels[x.target]? → step s = .next t → step s' = .next t' →
    t.channels[x.target]? = t'.channels[x.target]? ∧
    ∃ new, t.responses = new ++ s.responses ∧ t'.responses = new ++ s'.responses)

/-- R158, R40: commands to two different instances may be executed in either order: the registers of every instance and the two
responses are the same. -/
def Obligations.CommandsToDifferentInstancesCommute : Prop :=
  ∀ (s : State) (j k : Nat) (v w : CommandWord) (rest : List Input), j ≠ k → j < s.channels.length → k < s.channels.length →
    ∃ t u t' u' a b,
      step { s with inbox := .command j v :: .command k w :: rest } = .next t ∧ step t = .next u ∧
      step { s with inbox := .command k w :: .command j v :: rest } = .next t' ∧ step t' = .next u' ∧
      u.channels = u'.channels ∧ u.inbox = u'.inbox ∧
      u.responses = b :: a :: s.responses ∧ u'.responses = a :: b :: s.responses
end

