-- ==== Sys2Proof/Laws/State.lean ====
section
/-! SUPPORT. Field laws: for each update of the state or of an instance's registers, what each field is afterwards. -/

namespace Sys2Proof.Machine
variable (s : State) (c : Channel) (r : Response) (v : Violation) (p : Config.Params) (w : CommandWord)

/-! ### Writing the addressed instance -/

@[simp] theorem State.withChan_before : (s.withChan c).before = s.before := rfl
@[simp] theorem State.withChan_chan : (s.withChan c).chan = c := rfl
@[simp] theorem State.withChan_after : (s.withChan c).after = s.after := rfl
@[simp] theorem State.withChan_inbox : (s.withChan c).inbox = s.inbox := rfl
@[simp] theorem State.withChan_responses : (s.withChan c).responses = s.responses := rfl
@[simp] theorem State.withChan_channels : (s.withChan c).channels = s.before ++ c :: s.after := rfl

/-! ### Returning a response -/

@[simp] theorem State.respond_before : (s.respond r).before = s.before := rfl
@[simp] theorem State.respond_chan : (s.respond r).chan = s.chan := rfl
@[simp] theorem State.respond_after : (s.respond r).after = s.after := rfl
@[simp] theorem State.respond_inbox : (s.respond r).inbox = s.inbox := rfl
@[simp] theorem State.respond_responses : (s.respond r).responses = (s.before.length, r) :: s.responses := rfl
@[simp] theorem State.respond_channels : (s.respond r).channels = s.channels := rfl

/-! ### Taking a contract violation -/

@[simp] theorem raiseViolation_before : (raiseViolation v s).before = s.before := rfl
@[simp] theorem raiseViolation_chan : (raiseViolation v s).chan = s.chan := rfl
@[simp] theorem raiseViolation_after : (raiseViolation v s).after = s.after := rfl
@[simp] theorem raiseViolation_inbox : (raiseViolation v s).inbox = s.inbox := rfl
@[simp] theorem raiseViolation_responses :
    (raiseViolation v s).responses = (s.before.length, { violation := some v }) :: s.responses := rfl

/-! ### Power-on reset and sending a word -/

@[simp] theorem powerOn_before : (powerOn s).before = s.before := rfl
@[simp] theorem powerOn_chan : (powerOn s).chan = Channel.reset := rfl
@[simp] theorem powerOn_after : (powerOn s).after = s.after := rfl
@[simp] theorem powerOn_inbox : (powerOn s).inbox = s.inbox := rfl
@[simp] theorem powerOn_responses : (powerOn s).responses = s.responses := rfl
@[simp] theorem State.sendFirst_before : (s.sendFirst w).before = s.before := rfl
@[simp] theorem State.sendFirst_chan : (s.sendFirst w).chan = s.chan := rfl
@[simp] theorem State.sendFirst_after : (s.sendFirst w).after = s.after := rfl
@[simp] theorem State.sendFirst_inbox : (s.sendFirst w).inbox = .command s.before.length w :: s.inbox := rfl
@[simp] theorem State.sendFirst_responses : (s.sendFirst w).responses = s.responses := rfl

/-! ### The registers after INIT, a lock and a sync loss -/

@[simp] theorem Channel.initialised_st : Channel.initialised.st = 1 := rfl
@[simp] theorem Channel.initialised_head : Channel.initialised.head = 0 := rfl
@[simp] theorem Channel.initialised_tm : Channel.initialised.tm = 0 := rfl
@[simp] theorem Channel.initialised_nextId : Channel.initialised.nextId = 1 := rfl
@[simp] theorem Channel.initialised_mc : Channel.initialised.mc = 0 := rfl
@[simp] theorem Channel.initialised_phase : Channel.initialised.phase = 0 := rfl
@[simp] theorem Channel.initialised_win : Channel.initialised.win = ⟨0, 0, 0⟩ := rfl
@[simp] theorem Channel.lock_st : (c.lock p).st = 2 := rfl
@[simp] theorem Channel.lock_head : (c.lock p).head = 0 := rfl
@[simp] theorem Channel.lock_tm : (c.lock p).tm = c.tm := rfl
@[simp] theorem Channel.lock_nextId : (c.lock p).nextId = c.nextId := rfl
@[simp] theorem Channel.lock_mc : (c.lock p).mc = 0 := rfl
@[simp] theorem Channel.lock_phase : (c.lock p).phase = p.phaseAtLock := rfl
@[simp] theorem Channel.lock_win : (c.lock p).win = ⟨0, 0, 0⟩ := rfl
@[simp] theorem Channel.syncLoss_st : c.syncLoss.st = 1 := rfl
@[simp] theorem Channel.syncLoss_head : c.syncLoss.head = 0 := rfl
@[simp] theorem Channel.syncLoss_tm : c.syncLoss.tm = 0 := rfl
@[simp] theorem Channel.syncLoss_nextId : c.syncLoss.nextId = c.nextId := rfl
@[simp] theorem Channel.syncLoss_mc : c.syncLoss.mc = 0 := rfl
@[simp] theorem Channel.syncLoss_phase : c.syncLoss.phase = 0 := rfl
@[simp] theorem Channel.syncLoss_win : c.syncLoss.win = ⟨0, 0, 0⟩ := rfl

/-! ### The words of the window -/

@[simp] theorem Window.word_zero (x : Window) : x.word 0 = x.w0 := rfl
@[simp] theorem Window.word_one (x : Window) : x.word 1 = x.w1 := rfl
@[simp] theorem Window.word_two (x : Window) : x.word 2 = x.w2 := rfl

end Sys2Proof.Machine
end

