-- ==== Sys2Proof/Laws/Ops.lean ====
section
/-! SUPPORT. For each shared operation, once, everything it can do. -/

namespace Sys2Proof.Machine

/-! ### What STATE selects -/

theorem Channel.mode_eq_search {c : Channel} (h : c.st = 1) : c.mode = .search := by
  simp [Channel.mode, h]

theorem Channel.mode_eq_collect {c : Channel} (h : c.st = 2) : c.mode = .collect := by
  simp [Channel.mode, h]

theorem Channel.mode_eq_invalid {c : Channel} (h : c.st = 0 ∨ c.st = 3) : c.mode = .invalid := by
  rcases h with h | h <;> simp [Channel.mode, h]

/-- The three modes and the codes that mean them. -/
theorem Channel.mode_cases (c : Channel) :
    (c.mode = .search ∧ c.st = 1) ∨ (c.mode = .collect ∧ c.st = 2) ∨ (c.mode = .invalid ∧ (c.st = 0 ∨ c.st = 3)) := by
  obtain h | h | h | h : c.st = 0 ∨ c.st = 1 ∨ c.st = 2 ∨ c.st = 3 := by
    generalize c.st = x
    revert x
    decide
  · exact .inr (.inr ⟨mode_eq_invalid (.inl h), .inl h⟩)
  · exact .inl ⟨mode_eq_search h, h⟩
  · exact .inr (.inl ⟨mode_eq_collect h, h⟩)
  · exact .inr (.inr ⟨mode_eq_invalid (.inr h), .inr h⟩)

/-! ### Delivery -/

@[simp] theorem deliver_ok (s : State) (c : Channel) (r : Response) :
    deliver s (.ok (c, r)) = { s with chan := c, responses := (s.before.length, r) :: s.responses } := rfl

@[simp] theorem deliver_error (s : State) (v : Violation) :
    deliver s (.error v) =
      { s with responses := (s.before.length, { violation := some v }) :: s.responses } := rfl

/-! ### Inputs -/

/-- Addressing an instance that exists. -/
theorem State.address_of_channels {s : State} {pre post : List Channel} {c : Channel}
    (h : s.channels = pre ++ c :: post) :
    s.address pre.length = some { s with before := pre, chan := c, after := post } := by
  simp [State.address, h]

/-- Addressing an instance that does not exist. -/
theorem State.address_eq_none {s : State} {k : Nat} (h : s.channels.length ≤ k) : s.address k = none := by
  simp [State.address, List.drop_eq_nil_of_le h]

/-- Everything `address` can answer. -/
theorem State.address_cases (s : State) (k : Nat) :
    (s.address k = none ∧ s.channels.length ≤ k) ∨
    ∃ pre c post, s.channels = pre ++ c :: post ∧ pre.length = k ∧
      s.address k = some { s with before := pre, chan := c, after := post } := by
  by_cases h : s.channels.length ≤ k
  · exact .inl ⟨address_eq_none h, h⟩
  · have hk : k < s.channels.length := by omega
    have hs : s.channels = s.channels.take k ++ s.channels[k] :: s.channels.drop (k + 1) := by
      rw [List.getElem_cons_drop hk, List.take_append_drop]
    have hl : (s.channels.take k).length = k := by simp; omega
    exact .inr ⟨_, _, _, hs, hl, by simpa only [hl] using address_of_channels hs⟩

/-! ### The commands on one instance's registers -/

/-- The tests of R80 with the parameters' values. -/
theorem requestViolation_eq (i n : Nat) :
    requestViolation i n =
      if n < 1 ∨ 32 < n then some .badWidth
      else if i < 1 ∨ 96 < i then some .badIndex
      else if 96 < i + n - 1 then some .fieldOverrun
      else none := rfl

/-- No test of R80 fails exactly on a legal request (R81). -/
theorem requestViolation_eq_none (i n : Nat) :
    requestViolation i n = none ↔ 1 ≤ n ∧ n ≤ 32 ∧ 1 ≤ i ∧ i + n - 1 ≤ 96 := by
  rw [requestViolation_eq]
  by_cases h1 : n < 1 ∨ 32 < n
  · simp only [if_pos h1, reduceCtorEq, false_iff]
    omega
  · by_cases h2 : i < 1 ∨ 96 < i
    · simp only [if_neg h1, if_pos h2, reduceCtorEq, false_iff]
      omega
    · by_cases h3 : 96 < i + n - 1
      · simp only [if_neg h1, if_neg h2, if_pos h3, reduceCtorEq, false_iff]
        omega
      · simp only [if_neg h1, if_neg h2, if_neg h3, true_iff]
        omega

/-- EXT before INIT (R80, R148). -/
theorem extField_invalid {c : Channel} (h : c.st = 0 ∨ c.st = 3) (i n : Nat) :
    extField c i n = .error .notInitialised := by
  simp [extField, Channel.mode_eq_invalid h]

/-- EXT of an illegal request, after INIT. -/
theorem extField_violation {c : Channel} {i n : Nat} {v : Violation} (h : ¬(c.st = 0 ∨ c.st = 3))
    (hv : requestViolation i n = some v) : extField c i n = .error v := by
  obtain ⟨hm, _⟩ | ⟨hm, _⟩ | ⟨_, h'⟩ := c.mode_cases
  · simp [extField, hm, hv]
  · simp [extField, hm, hv]
  · exact absurd h' h

/-- EXT of a legal request, after INIT. -/
theorem extField_legal {c : Channel} {i n : Nat} (h : ¬(c.st = 0 ∨ c.st = 3))
    (hv : requestViolation i n = none) : extField c i n = .ok (c, { data := extract c.win i n }) := by
  obtain ⟨hm, _⟩ | ⟨hm, _⟩ | ⟨_, h'⟩ := c.mode_cases
  · simp [extField, hm, hv]
  · simp [extField, hm, hv]
  · exact absurd h' h

/-- Everything EXT can do (R80). -/
theorem extField_cases (c : Channel) (i n : Nat) :
    (c.mode = .invalid ∧ extField c i n = .error .notInitialised) ∨
    (c.mode ≠ .invalid ∧ ∃ v, requestViolation i n = some v ∧ extField c i n = .error v) ∨
    (c.mode ≠ .invalid ∧ requestViolation i n = none ∧ extField c i n = .ok (c, { data := extract c.win i n })) := by
  unfold extField
  cases hm : c.mode <;> cases hv : requestViolation i n <;> simp

/-- Everything the line decoder can do (R92). -/
theorem lineDecode_cases (c : Channel) (b : Bit) :
    (c.mc = 0 ∧ lineDecode c b = ({ c with mc := 1 }, none)) ∨
    (c.mc = 1 ∧ lineDecode c b = ({ c with mc := 0 }, some (b ^^^ c.phase))) := by
  obtain h | h : c.mc = 0 ∨ c.mc = 1 := by
    generalize c.mc = x
    revert x
    decide
  · exact .inl ⟨h, by simp [lineDecode, h]⟩
  · exact .inr ⟨h, by simp [lineDecode, h]⟩

/-- Everything UPD can do in SEARCH (R101 to R103). -/
theorem searchBit_cases (p : Config.Params) (b : Bit) (c : Channel) :
    (isTimeMark (shiftedTm c.tm b) = true ∧ searchBit p b c = { c with tm := shiftedTm c.tm b }.lock p) ∨
    (isTimeMark (shiftedTm c.tm b) = false ∧ searchBit p b c = { c with tm := shiftedTm c.tm b }) := by
  unfold searchBit
  cases isTimeMark (shiftedTm c.tm b) <;> simp

/-- Everything the end of a string can do (R125, R126). -/
theorem completeString_cases (p : Config.Params) (c : Channel) :
    ((stringCheck p c).ok = true ∧ completeString p c =
      ({ c with nextId := successor (stringCheck p c).sn },
        { status := .stringReady, stringId := (stringCheck p c).sn, seqMatch := (stringCheck p c).seq })) ∨
    ((stringCheck p c).ok = false ∧ completeString p c =
      (c.syncLoss,
        { status := .syncLoss, stringId := (stringCheck p c).sn, lossFlags := (stringCheck p c).flags,
          seqMatch := (stringCheck p c).seq })) := by
  unfold completeString
  cases (stringCheck p c).ok <;> simp

/-- Everything a data bit's write can do (R104, R105, R111). -/
theorem writeDataBit_cases (p : Config.Params) (d : Bit) (c : Channel) :
    (95 < c.head.toNat ∧ writeDataBit p d c = .error .cursorRange) ∨
    (c.head.toNat < 95 ∧ writeDataBit p d c =
      .ok ({ c with win := memWrite c.win c.head.toNat d, head := c.head + 1 }, {})) ∨
    (c.head = 95 ∧ writeDataBit p d c =
      .ok (completeString p { c with win := memWrite c.win 95 d, head := 0 })) := by
  unfold writeDataBit
  rcases Nat.lt_trichotomy c.head.toNat 95 with h | h | h
  · exact .inr (.inl ⟨h, by rw [if_neg (by omega), if_pos h]⟩)
  · exact .inr (.inr ⟨BitVec.eq_of_toNat_eq h, by rw [if_neg (by omega), if_neg (by omega), h]⟩)
  · exact .inl ⟨h, if_pos h⟩

/-- UPD in COLLECT, first half of a pair. -/
theorem collectBit_first {p : Config.Params} {b : Bit} {c : Channel} (h : c.mc = 0) :
    collectBit p b c = .ok ({ c with mc := 1 }, {}) := by
  simp [collectBit, lineDecode, h]

/-- UPD in COLLECT, second half of a pair. -/
theorem collectBit_second {p : Config.Params} {b : Bit} {c : Channel} (h : c.mc = 1) :
    collectBit p b c = writeDataBit p (b ^^^ c.phase) { c with mc := 0 } := by
  simp [collectBit, lineDecode, h]

/-- UPD where STATE is not a legal running state. -/
theorem updChannel_invalid {p : Config.Params} {b : Bit} {c : Channel} (h : c.st = 0 ∨ c.st = 3) :
    updChannel p b c = .error .notInitialised := by
  simp [updChannel, Channel.mode_eq_invalid h]

/-- UPD in SEARCH. -/
theorem updChannel_search {p : Config.Params} {b : Bit} {c : Channel} (h : c.st = 1) :
    updChannel p b c = .ok (searchBit p b c, {}) := by
  simp [updChannel, Channel.mode_eq_search h]

/-- UPD in COLLECT. -/
theorem updChannel_collect {p : Config.Params} {b : Bit} {c : Channel} (h : c.st = 2) :
    updChannel p b c = collectBit p b c := by
  simp [updChannel, Channel.mode_eq_collect h]

/-! ### What a command and a step can do -/

/-- The registers and the response a command gives, or the violation it raises. -/
def outcomeOn (i : Instr) (c : Channel) : Except Violation (Channel × Response) :=
  match i with
  | .nop => .ok (c, {})
  | .init => .ok (Channel.initialised, {})
  | .upd b => updChannel Config.params b c
  | .ext bitIndex nBits => extField c bitIndex nBits
  | .rds sel => .ok (c, { data := c.register sel })

/-- Every command answers a next state, and all it does to the state is to deliver its outcome on the addressed registers. -/
theorem exec_eq_deliver (i : Instr) (s : State) : exec i s = .next (deliver s (outcomeOn i s.chan)) := by
  cases i <;> rfl

/-- A step without input. -/
theorem step_of_no_input {s : State} (h : s.inbox = []) : step s = .next s := by
  simp [step, State.takeInput, h]

/-- A step on a command word that decodes. -/
theorem step_of_command {s : State} {w : CommandWord} {i : Instr} {rest : List Input}
    {pre post : List Channel} {c : Channel} (hc : s.channels = pre ++ c :: post)
    (hi : s.inbox = .command pre.length w :: rest) (hd : decode w = .ok i) :
    step s = exec i { s with before := pre, chan := c, after := post, inbox := rest } := by
  have ha := State.address_of_channels (s := { s with inbox := rest }) hc
  simp [step, State.takeInput, hi, ha, hd]

/-- A step on a command word that does not decode. -/
theorem step_of_illegal {s : State} {w : CommandWord} {e : DecodeError} {rest : List Input}
    {pre post : List Channel} {c : Channel} (hc : s.channels = pre ++ c :: post)
    (hi : s.inbox = .command pre.length w :: rest) (hd : decode w = .error e) :
    step s = .next (illegalCommand { s with before := pre, chan := c, after := post, inbox := rest }) := by
  have ha := State.address_of_channels (s := { s with inbox := rest }) hc
  simp [step, State.takeInput, hi, ha, hd]

/-- A step on a power-on reset. -/
theorem step_of_powerOn {s : State} {rest : List Input} {pre post : List Channel} {c : Channel}
    (hc : s.channels = pre ++ c :: post) (hi : s.inbox = .powerOnReset pre.length :: rest) :
    step s = .next (powerOn { s with before := pre, chan := c, after := post, inbox := rest }) := by
  have ha := State.address_of_channels (s := { s with inbox := rest }) hc
  simp [step, State.takeInput, hi, ha]

end Sys2Proof.Machine
end

