-- ==== Sys2Proof/Laws/Check.lean ====
section
/-! SUPPORT. The string check in terms of the window's fields, and the arithmetic of the search. -/

namespace Sys2Proof.Machine

/-- A bit is 0 or 1. -/
theorem bit_cases (x : Bit) : x = 0 ∨ x = 1 := by
  revert x
  decide

/-- The string number's bits as `Extract(W, 81, 4)` reads them, cut to their four bits (R121). -/
theorem setWidth_extract_number (w : Window) : (extract w 81 4).setWidth 4 = stringNumber w := by
  change ((w.w2 >>> 16) &&& 0xF).setWidth 4 = w.w2.extractLsb' 16 4
  apply BitVec.eq_of_getLsbD_eq
  intro j hj
  have hm : (0xF#32).getLsbD j = true := by
    obtain rfl | rfl | rfl | rfl : j = 0 ∨ j = 1 ∨ j = 2 ∨ j = 3 := by omega
    all_goals rfl
  rw [BitVec.getLsbD_setWidth, BitVec.getLsbD_and, show BitVec.getLsbD (15 : BitVec 32) j = true from hm]
  simp [hj]

/-- What the string check reports as the string number (R124). -/
theorem stringCheck_sn (p : Config.Params) (c : Channel) : (stringCheck p c).sn = stringNumber c.win :=
  setWidth_extract_number c.win

/-- The check of the string number fails exactly when it is 0 (R121). -/
theorem extract_number_eq_zero (w : Window) : extract w 81 4 = 0 ↔ stringNumber w = 0 := by
  rw [← setWidth_extract_number]
  constructor
  · intro h
    rw [h]
    rfl
  · intro h
    have hlt : (extract w 81 4).toNat ≤ 15 := by
      change ((w.w2 >>> 16) &&& 0xF).toNat ≤ 15
      rw [BitVec.toNat_and]
      exact Nat.and_le_right
    have h0 := congrArg BitVec.toNat h
    rw [BitVec.toNat_setWidth] at h0
    apply BitVec.eq_of_toNat_eq
    change _ % 16 = 0 at h0
    change _ = 0
    omega

/-- The dummy bit as `Extract(W, 85, 1)` reads it (R122). -/
theorem extract_dummy (w : Window) : extract w 85 1 = (dummyBit w).setWidth 32 := by
  change (w.w2 >>> 20) &&& 1 = (w.w2.extractLsb' 20 1).setWidth 32
  apply BitVec.eq_of_getLsbD_eq
  intro j hj
  obtain rfl | h : j = 0 ∨ j ≠ 0 := by omega
  · simp
  · have h1 : (1 : BitVec 32).getLsbD j = false := by
      change (BitVec.ofNat 32 1).getLsbD j = false
      simp [h]
    rw [BitVec.getLsbD_and, h1, BitVec.getLsbD_setWidth, BitVec.getLsbD_extractLsb']
    simp [h]

/-- A bit written from an equality test. -/
theorem bitOf_beq {n : Nat} (x y : BitVec n) : bitOf (x == y) = if x = y then 1#1 else 0#1 := by
  by_cases h : x = y
  · rw [if_pos h, h, beq_self_eq_true]
    rfl
  · rw [if_neg h, beq_false_of_ne h]
    rfl

/-- The loss flags, from the highest: hook rejected, dummy bit 1, string number 0 (R124, R57). -/
theorem stringCheck_flags (p : Config.Params) (c : Channel) :
    (stringCheck p c).flags =
      (if p.hook (c.win.w2 ++ c.win.w1 ++ c.win.w0) c.nextId = 0 then 1#1 else 0#1) ++ dummyBit c.win ++
        (if stringNumber c.win = 0 then 1#1 else 0#1) := by
  have hd : bitOf (extract c.win 85 1 != 0) = dummyBit c.win := by
    rw [extract_dummy]
    obtain h | h := bit_cases (dummyBit c.win) <;> rw [h] <;> rfl
  have hn : bitOf (extract c.win 81 4 == 0) = if stringNumber c.win = 0 then 1#1 else 0#1 := by
    rw [bitOf_beq]
    by_cases h : stringNumber c.win = 0
    · rw [if_pos h, if_pos ((extract_number_eq_zero _).mpr h)]
    · rw [if_neg h, if_neg (mt (extract_number_eq_zero _).mp h)]
  have hk := bitOf_beq (p.hook (c.win.w2 ++ c.win.w1 ++ c.win.w0) c.nextId) 0
  have hf : (stringCheck p c).flags =
      bitOf (p.hook (c.win.w2 ++ c.win.w1 ++ c.win.w0) c.nextId == 0) ++ bitOf (extract c.win 85 1 != 0) ++
        bitOf (extract c.win 81 4 == 0) := rfl
  rw [hf, hd, hn, hk]

/-- Whether the number is the expected one (R124). -/
theorem stringCheck_seq (p : Config.Params) (c : Channel) :
    (stringCheck p c).seq = if stringNumber c.win = c.nextId then 1#1 else 0#1 := by
  change bitOf ((extract c.win 81 4).setWidth 4 == c.nextId) = _
  rw [setWidth_extract_number, bitOf_beq]

/-- The verdict (R124). -/
theorem stringCheck_ok (c : Channel) :
    (stringCheck Config.params c).ok = true ↔ stringPasses c.win c.nextId := by
  rw [Verdict.ok, stringCheck_flags]
  change _ ↔ _ ∧ _ ∧ Config.params.hook _ _ = 1
  generalize Config.params.hook _ _ = x
  generalize dummyBit c.win = y
  generalize stringNumber c.win = z
  revert x y z
  decide

/-- The compare of R102 on a value the mask has been applied to. -/
theorem isTimeMark_shiftedTm (tm : Word) (b : Bit) :
    isTimeMark (shiftedTm tm b) = true ↔ ((tm <<< 1) ||| b.setWidth 32) &&& 0x3FFFFFFF = 0x3E375096 := by
  rw [isTimeMark, shiftedTm, beq_iff_eq, BitVec.and_assoc, BitVec.and_self]
  rfl

end Sys2Proof.Machine
end

