-- ==== Sys2Proof/Laws/PerInstr.lean ====
section
/-! SUPPORT. Per-command facts about the encoding: one lemma per constructor. -/

/-- The word of a well-formed command carries the command's opcode in bits 15:13 (spec/30_encoding.md R51). -/
def Sys2Proof.Laws.OpcodeInItsField.Statement (i : Sys2Proof.Instr) : Prop :=
  Sys2Proof.wellFormed i = true → Sys2Proof.opField (Sys2Proof.encode i) = Sys2Proof.opcodeOf i

namespace Sys2Proof.Laws.OpcodeInItsField

theorem nop : Statement .nop := fun _ => by decide

theorem init : Statement .init := fun _ => by decide

theorem upd (b : Bit) : Statement (.upd b) := fun _ => by revert b; decide

theorem ext (bitIndex nBits : Nat) : Statement (.ext bitIndex nBits) := by
  intro h
  simp only [wellFormed, Bool.and_eq_true, decide_eq_true_eq] at h
  obtain ⟨hi, hn⟩ := h
  apply BitVec.eq_of_toNat_eq
  simp only [opField, encode, opcodeOf, BitVec.extractLsb'_toNat, BitVec.toNat_ofNat, Nat.shiftRight_eq_div_pow]
  change _ = 3
  omega

theorem rds (sel : BitVec 3) : Statement (.rds sel) := fun _ => by revert sel; decide

end Sys2Proof.Laws.OpcodeInItsField
end

