-- ==== Sys2Proof/Laws/Step.lean ====
section
/-! SUPPORT. Everything a step can do, once. -/

namespace Sys2Proof.Machine

/-- A step that answers a next state found no input and changed nothing, or took an input addressed to an existing instance and
reset that instance, ran the command it decodes to, or refused the word with ILLEGAL_COMMAND. -/
theorem step_cases {s t : State} (h : step s = .next t) :
    (s.inbox = [] ∧ t = s) ∨
    ∃ x rest pre c post, s.inbox = x :: rest ∧ s.channels = pre ++ c :: post ∧ pre.length = x.target ∧
      ((∃ k, x = .powerOnReset k ∧ t = powerOn ⟨pre, c, post, rest, s.responses⟩) ∨
        ∃ k w, x = .command k w ∧
          ((∃ i, decode w = .ok i ∧ exec i ⟨pre, c, post, rest, s.responses⟩ = .next t) ∨
            ∃ e, decode w = .error e ∧ t = illegalCommand ⟨pre, c, post, rest, s.responses⟩)) := by
  cases hi : s.inbox with
  | nil =>
    rw [step_of_no_input hi] at h
    cases h
    exact .inl ⟨rfl, rfl⟩
  | cons x rest =>
    right
    rcases State.address_cases { s with inbox := rest } x.target with ⟨hn, _⟩ | ⟨pre, c, post, hc, hl, _⟩
    · exfalso
      cases x <;> simp [step, State.takeInput, hi, Input.target] at h hn <;> simp [hn] at h
    · refine ⟨x, rest, pre, c, post, rfl, hc, hl, ?_⟩
      cases x with
      | powerOnReset k =>
        cases hl
        rw [step_of_powerOn (s := s) hc hi] at h
        cases h
        exact .inl ⟨_, rfl, rfl⟩
      | command k w =>
        cases hl
        refine .inr ⟨_, _, rfl, ?_⟩
        cases hd : decode w with
        | ok i =>
          rw [step_of_command (s := s) hc hi hd] at h
          exact .inl ⟨_, rfl, h⟩
        | error e =>
          rw [step_of_illegal (s := s) hc hi hd] at h
          cases h
          exact .inr ⟨_, rfl, rfl⟩

/-- A step on an input for an instance that does not exist (log entry 5). -/
theorem step_fault_of_missing {s : State} {x : Input} {rest : List Input} (hi : s.inbox = x :: rest)
    (hl : s.channels.length ≤ x.target) : step s = .fault .noSuchInstance := by
  have ha : ({ s with inbox := rest } : State).address x.target = none := State.address_eq_none hl
  cases x <;> simp only [Input.target] at ha <;> simp [step, State.takeInput, hi, ha]

end Sys2Proof.Machine
end

