-- ==== Sys2Proof/Laws/Window.lean ====
section
/-! SUPPORT. The window bit by bit: what the 96-bit view, a read and a write are in terms of single bits. -/

namespace Sys2Proof.Machine

/-- Bit `a` of the 96-bit view is bit `a % 32` of word `a / 32` (spec/20_memory.md R31, R32). -/
theorem Window.w96_getLsbD (w : Window) {a : Nat} (h : a < 96) :
    w.w96.getLsbD a = (w.word (a / 32)).getLsbD (a % 32) := by
  unfold Window.w96
  rw [BitVec.getLsbD_append, BitVec.getLsbD_append]
  obtain ha | ha | ha : a < 32 ∨ (32 ≤ a ∧ a < 64) ∨ 64 ≤ a := by omega
  · have h0 : a / 32 = 0 := by omega
    have h1 : a % 32 = a := by omega
    simp [ha, h0, h1]
  · have h0 : a / 32 = 1 := by omega
    have h1 : a % 32 = a - 32 := by omega
    have h2 : a - 32 < 32 := by omega
    simp [h0, h1, h2, show ¬a < 32 by omega]
  · have h0 : a / 32 = 2 := by omega
    have h1 : a % 32 = a - 32 - 32 := by omega
    simp [h0, h1, show ¬a < 32 by omega, show ¬a - 32 < 32 by omega]

/-- A read, bit by bit (R36). -/
theorem memRead_getLsbD (w : Window) (addr n j : Nat) :
    (memRead w addr n).getLsbD j = (decide (j < 32) && decide (j < n) && w.w96.getLsbD (addr + j)) := by
  simp [memRead, BitVec.getLsbD_setWidth, BitVec.getLsbD_extractLsb', Bool.and_assoc]

/-- The word a write puts back, bit by bit (R37). -/
theorem replaced_getLsbD (x : Word) (v : Bit) {q : Nat} (hq : q < 32) (p : Nat) :
    ((x &&& ~~~(1#32 <<< p)) ||| (v.setWidth 32 <<< p)).getLsbD q =
      if q = p then v.getLsbD 0 else x.getLsbD q := by
  simp only [BitVec.getLsbD_or, BitVec.getLsbD_and, BitVec.getLsbD_not, BitVec.getLsbD_shiftLeft,
    BitVec.getLsbD_setWidth, hq, decide_true, Bool.true_and]
  obtain hlt | rfl | hgt := Nat.lt_trichotomy q p
  · simp [hlt, show q ≠ p by omega]
  · simp
  · have h0 : q - p ≠ 0 := by omega
    have h1 : v.getLsbD (q - p) = false := BitVec.getLsbD_of_ge _ _ (by omega)
    simp [show ¬q < p by omega, show q ≠ p by omega, h0, h1]

/-- A word that was just written, and the other two. -/
theorem Window.word_setWord (w : Window) {i j : Nat} (hi : i < 3) (hj : j < 3) (x : Word) :
    (w.setWord i x).word j = if j = i then x else w.word j := by
  obtain rfl | rfl | rfl : i = 0 ∨ i = 1 ∨ i = 2 := by omega
  all_goals obtain rfl | rfl | rfl : j = 0 ∨ j = 1 ∨ j = 2 := by omega
  all_goals rfl

/-- Every bit of the window after a write: the addressed one is the written one, the other 95 are as before (R37). -/
theorem memWrite_getLsbD (w : Window) {addr a : Nat} (v : Bit) (hd : addr < 96) (ha : a < 96) :
    (memWrite w addr v).w96.getLsbD a = if a = addr then v.getLsbD 0 else w.w96.getLsbD a := by
  rw [Window.w96_getLsbD _ ha, Window.w96_getLsbD _ ha, memWrite,
    Window.word_setWord _ (by omega) (by omega)]
  by_cases hw : a / 32 = addr / 32
  · rw [if_pos hw, replaced_getLsbD _ _ (by omega), hw]
    by_cases hp : a % 32 = addr % 32
    · rw [if_pos hp, if_pos (by omega)]
    · rw [if_neg hp, if_neg (by omega)]
  · rw [if_neg hw, if_neg (by omega)]

end Sys2Proof.Machine
end

