-- ==== Sys2Proof/Tests/Slice0.lean ====
section
/-! SUPPORT. Tests: expected results from the spec's encodings (spec/30_encoding.md R51, R62) and vectors (spec/95_test_vectors.md),
and for each statement with hypotheses a witness that meets them. -/

namespace Sys2Proof.Tests

open Sys2Proof Sys2Proof.Machine

/-- A one-instance state with these registers, in the order of spec/95_test_vectors.md. -/
def st (state : BitVec 2) (head : BitVec 7) (tm : Word) (nextId : BitVec 4) (mc phase : Bit) (w0 w1 w2 : Word) : State :=
  { before := [], chan := ⟨state, head, tm, nextId, mc, phase, ⟨w0, w1, w2⟩⟩, after := [], inbox := [], responses := [] }

/-- The addressed registers an outcome leaves. -/
def chanOf : Host.Outcome State Fault Refusal → Option Channel
  | .next s => some s.chan
  | _ => none

/-- The packed newest response of an outcome. -/
def rspOf : Host.Outcome State Fault Refusal → Option (BitVec 46)
  | .next s => s.responses.head?.map fun x => x.2.pack
  | _ => none

/-! ### Well-formedness: each check refuses an ill-formed command -/

theorem test_wellFormed_refuses_wide_index : wellFormed (.ext 128 1) = false := by decide
theorem test_wellFormed_refuses_wide_width : wellFormed (.ext 1 64) = false := by decide
theorem test_wellFormed_accepts_the_extremes :
    wellFormed (.ext 127 63) = true ∧ wellFormed (.rds 7) = true ∧ wellFormed .nop = true ∧ wellFormed .init = true ∧
    wellFormed (.upd 1) = true := by decide

/-! ### Decoding: words written out bit by bit from R51 -/

theorem test_decode_nop : decode 0b0000000000000000 = .ok .nop := by decide
theorem test_decode_init : decode 0b0010000000000000 = .ok .init := by decide
theorem test_decode_upd : decode 0b0100000000000001 = .ok (.upd 1) := by decide
/-- bit_index 49 = 0110001, n_bits 4 = 000100: word 0x6C44 of spec/95_test_vectors.md S2. -/
theorem test_decode_ext : decode 0b0110110001000100 = .ok (.ext 49 4) := by decide
theorem test_decode_rds : decode 0b1000000000000101 = .ok (.rds 5) := by decide
/-- spec/95_test_vectors.md section 3, the illegal words. -/
theorem test_decode_illegal :
    decode 0x0001 = .error .mustBeZero ∧ decode 0x1000 = .error .mustBeZero ∧ decode 0x2001 = .error .mustBeZero ∧
    decode 0x3000 = .error .mustBeZero ∧ decode 0x4002 = .error .mustBeZero ∧ decode 0x5FFF = .error .mustBeZero ∧
    decode 0x8008 = .error .mustBeZero ∧ decode 0x9000 = .error .mustBeZero ∧ decode 0xA000 = .error .reservedOpcode ∧
    decode 0xC000 = .error .reservedOpcode ∧ decode 0xE000 = .error .reservedOpcode ∧
    decode 0xFFFF = .error .reservedOpcode := by decide
theorem test_decodeTableWord : decodeTableWord 16 0x6060 = some (.ext 1 32) ∧ decodeTableWord 16 0xA000 = none := by decide
/-- R51: no two rows of the table share a word with all fixed bits of both. -/
theorem test_rows_pairwise_disjoint :
    opcodeRows.Pairwise fun a b => a.pattern &&& b.mask &&& a.mask ≠ b.pattern &&& a.mask &&& b.mask := by decide

/-! ### Commands: vectors of spec/95_test_vectors.md -/

theorem test_nop_before_init : rspOf (exec .nop State.reset) = some 0 := by decide

/-- Section 7, last row: a mid-string INIT abandons everything. -/
theorem test_init_mid_string :
    chanOf (exec .init (st 2 37 0x3E375096 9 1 1 7 7 7)) = some ⟨1, 0, 0, 1, 0, 0, ⟨0, 0, 0⟩⟩ := by decide

/-- Section 2, `EXT 60, 10`: a field across W[1] and W[2]. -/
theorem test_ext_crossing :
    rspOf (exec (.ext 60 10) (st 2 0 0x3E375096 6 0 0 0x12345678 0xdeadbeef 0x87654321)) = some 0x3b := by decide
/-- Section 2, `EXT 96, 2`. -/
theorem test_ext_overrun :
    rspOf (exec (.ext 96 2) (st 2 0 0x3E375096 6 0 0 0x12345678 0xdeadbeef 0x87654321)) = some 0x340000000000 := by decide

/-- Section 7: RDS 4 is PHASE and MC; RDS 2 is TM. -/
theorem test_rds_line : rspOf (exec (.rds 4) (st 2 1 0x3E375096 1 1 1 1 0 0)) = some 3 := by decide
theorem test_rds_tm : rspOf (exec (.rds 2) (st 2 0 0x3E375096 4 0 0 0 0 0)) = some 0x3E375096 := by decide

/-- Section 4, n = 29 to n = 30: the lock. -/
theorem test_upd_lock :
    (chanOf (exec (.upd 0) (st 1 0 0x1F1BA84B 1 0 0 0 0 0))).map (fun c => (c.st, c.head, c.tm, c.win)) =
      some (2, 0, 0x3E375096, ⟨0, 0, 0⟩) := by decide
/-- Section 5, the 66th UPD of P2: slot 32 is bit 0 of W[1]. -/
theorem test_upd_word_boundary :
    chanOf (exec (.upd 1) (st 2 32 0x3E375096 1 1 0 0x12345678 0 0)) =
      some ⟨2, 33, 0x3E375096, 1, 0, 0, ⟨0x12345678, 1, 0⟩⟩ := by decide

/-- Section 6, first row, with the default parameters: rsp 0x001300000000 and NEXT_ID 4. -/
theorem test_string_ready_with_default_parameters :
    (updChannel Config.defaultParams 1 (st 2 95 0x3E375096 1 1 0 0x12345678 0xdeadbeef 0x07634321).chan).toOption.map
      (fun x => (x.1.nextId, x.1.win.w2, x.2.pack)) = some (4, 0x87634321, 0x001300000000) := by decide
/-- Section 6, last but one row of the constant-0 hook: rsp 0x01E000000000. -/
theorem test_sync_loss_reports_all_flags :
    (updChannel { phaseAtLock := 0, hook := fun _ _ => 0 } 0 (st 2 95 0x3E375096 1 1 0 0 0 0x00100000).chan).toOption.map
      (fun x => (x.1, x.2.pack)) = some (⟨1, 0, 0, 1, 0, 0, ⟨0, 0, 0⟩⟩, 0x01E000000000) := by decide
/-- R129: the three worked examples of the string check. -/
theorem test_string_check_examples :
    (stringCheck Config.defaultParams (st 2 0 0 1 0 0 0x12345678 0xdeadbeef 0x87634321).chan) = ⟨3, 0, 0⟩ ∧
    (stringCheck Config.defaultParams (st 2 0 0 1 0 0 0 0 0).chan) = ⟨0, 1, 0⟩ ∧
    (stringCheck Config.defaultParams (st 2 0 0 1 0 0 0 0 0x00170000).chan) = ⟨7, 2, 0⟩ := by decide
/-- Section 4, the wrong-parameter row: PHASE_AT_LOCK = 1 is copied to PHASE. -/
theorem test_lock_copies_the_parameter :
    (searchBit { phaseAtLock := 1, hook := fun _ _ => 1 } 0 (st 1 0 0x1F1BA84B 1 0 0 0 0 0).chan).phase = 1 := by decide
/-- Program P1's first words and program P2's first raw bits, from R63. -/
theorem test_assembler :
    (updTm.map encode).take 6 = [0x4001, 0x4001, 0x4001, 0x4001, 0x4001, 0x4000] ∧
    (lineCoded 0 (windowDataBits 0x12345678 0xdeadbeef 0x87634321)).take 16 =
      [1, 0, 1, 0, 1, 0, 0, 1, 0, 1, 0, 1, 0, 1, 1, 0] ∧
    (lineCoded 1 (windowDataBits 5 5 0x00030005)).take 8 = [1, 0, 0, 1, 1, 0, 0, 1] := by decide

/-! ### Steps -/

/-- Program P4, third line: the word 0xA000 in the power-on state. -/
theorem test_step_illegal_word : rspOf (step (State.reset.withFetchWord 16 0xA000)) = some 0x240000000000 := by decide
/-- Program P4, first line: UPD before INIT. -/
theorem test_step_runs_the_word_after_reset :
    rspOf (step (State.reset.withFetchWord 16 0x4001)) = some 0x280000000000 := by decide
/-- R28: a command to instance 1 of a two-instance machine leaves instance 0 as it was. -/
theorem test_step_addresses_the_second_instance :
    (match step { State.resetWith 1 with inbox := [.command 1 0x2000] } with
      | .next s => some (s.channels.map fun c => c.st)
      | _ => none) = some [0, 1] := by decide
theorem test_reset_inv : State.reset.Inv := by decide

/-! ### Witnesses: states and operands that meet a statement's hypotheses -/

/-- A SEARCH state with TM cleared, a COLLECT state at the start of a string, and one at HEAD `head` with `mc` halves. -/
def searching : State := st 1 0 0 1 0 0 0 0 0
def collecting (head : BitVec 7) (mc : Bit) : State := st 2 head 0x3E375096 1 mc 0 0 0 0

/-- Every command answers some next state, so a premise `exec i s = .next t` is met by every `i` and `s`. -/
theorem exec_answers (i : Instr) (s : State) : ∃ t, exec i s = .next t := ⟨_, exec_eq_deliver i s⟩

theorem witness_DecodeOfEncodeIsTheCommand : wellFormed (.ext 127 63) = true ∧ wellFormed (.ext 0 0) = true := by decide
theorem witness_EncodeOfDecodeIsTheWord : decode 0x7FFF = .ok (.ext 127 63) := by decide
theorem witness_OpcodeRowsAreDisjoint :
    rowExt ∈ opcodeRows ∧ (0x7FFF : CommandWord) &&& rowExt.mask = rowExt.pattern := by decide
theorem witness_ReservedWordsAreExactlyTheIllegalOnes : (0x7FFF : CommandWord).extractLsb' 13 3 = 3 := by decide
theorem witness_StepRunsTheDecodedCommand :
    (State.reset.sendFirst 0x4001).before ++ (State.reset.sendFirst 0x4001).chan :: (State.reset.sendFirst 0x4001).after =
      [] ++ Channel.reset :: [] ∧
    (State.reset.sendFirst 0x4001).inbox = [.command 0 0x4001] ∧ decode 0x4001 = .ok (.upd 1) := by decide
theorem witness_StepAnswersIllegalWords :
    (State.reset.sendFirst 0xA000).before ++ (State.reset.sendFirst 0xA000).chan :: (State.reset.sendFirst 0xA000).after =
      [] ++ Channel.reset :: [] ∧
    (State.reset.sendFirst 0xA000).inbox = [.command 0 0xA000] ∧ decode 0xA000 = .error .reservedOpcode := by decide
theorem witness_StepPowersAnInstanceOn :
    ({ State.resetWith 1 with inbox := [.powerOnReset 1] } : State).channels = [Channel.reset] ++ Channel.reset :: [] ∧
    ({ State.resetWith 1 with inbox := [.powerOnReset 1] } : State).inbox =
      [.powerOnReset [Channel.reset].length] := by decide
theorem witness_StepStopsOnlyForAMissingInstance :
    State.reset.inbox = [] ∧ ∃ x rest, ({ State.reset with inbox := [.command 1 0] } : State).inbox = x :: rest ∧
      State.reset.before.length + 1 + State.reset.after.length ≤ x.target :=
  ⟨rfl, .command 1 0, [], rfl, by decide⟩

/-- A string whose number is 0 fails its check whatever HOOK is (R121). -/
theorem completing_zero_string_loses_sync :
    exec (.upd 0) (collecting 95 1) = .next
      { collecting 95 1 with
        chan := ⟨1, 0, 0, 1, 0, 0, ⟨0, 0, 0⟩⟩
        responses := [(0, (completeString Config.params (collecting 0 0).chan).2)] } := by
  have hno : ¬(stringCheck Config.params (collecting 0 0).chan).ok = true := by
    rw [stringCheck_ok]
    exact fun h => h.1 (by decide)
  have hc : (completeString Config.params (collecting 0 0).chan).1 = ⟨1, 0, 0, 1, 0, 0, ⟨0, 0, 0⟩⟩ := by
    rw [completeString, if_neg hno]
    rfl
  change Host.Outcome.next (deliver (collecting 95 1) (.ok (completeString Config.params (collecting 0 0).chan))) = _
  rw [← hc]
  rfl

theorem witness_RegisterValuesAfterResetInitAndSyncLoss :
    (Channel.reset ∈ (State.resetWith 2).channels) ∧
    ∃ t, (collecting 95 1).chan.st = 2 ∧ exec (.upd 0) (collecting 95 1) = .next t ∧ t.chan.st = 1 :=
  ⟨by decide, _, rfl, completing_zero_string_loses_sync, rfl⟩
theorem witness_InitGivesAConstantAndAloneLeavesInvalid :
    (∃ t u, exec .init State.reset = .next t ∧ exec .init t = .next u) ∧
    (∃ t, State.reset.chan.st = 0 ∧ exec (.upd 1) State.reset = .next t ∧ Instr.upd 1 ≠ .init) ∧
    (∃ t, (st 3 0 0 0 0 0 0 0 0).chan.st = 3 ∧ exec (.ext 1 1) (st 3 0 0 0 0 0 0 0 0) = .next t) :=
  ⟨⟨_, _, rfl, rfl⟩, ⟨_, rfl, rfl, by decide⟩, ⟨_, rfl, rfl⟩⟩
theorem witness_RdsReturnsTheSelectedRegister :
    State.reset.chan.st ≠ 3 ∧ (∀ sel : BitVec 3, sel ≠ 0 → (st 3 0 0 0 0 0 0 0 0).chan.st ≠ 3 ∨ sel ≠ 0) := by decide
theorem witness_RdsOfTheUnusedStateCode : (st 3 0 0 0 0 0 0 0 0).chan.st = 3 := by decide
theorem witness_BitIndexNamesItsWordAndPosition : 1 ≤ 1 ∧ 1 ≤ 96 ∧ 96 ≤ 96 := by decide
theorem witness_MemWriteChangesOneBit : 0 ≤ 95 ∧ 95 ≤ 95 := by decide
theorem witness_ExtAnswersTheFieldOrTheFirstViolation : 127 < 128 ∧ 63 < 64 := by decide
theorem witness_ExtractTwoCasesAgreeWithTheClosedForm :
    (1 ≤ 32 ∧ 32 ≤ 32 ∧ 1 ≤ 65 ∧ 65 + 32 - 1 ≤ 96) ∧ (1 ≤ 1 ∧ 1 ≤ 32 ∧ 1 ≤ 96 ∧ 96 + 1 - 1 ≤ 96) := by decide
theorem witness_ExtractIsRightAligned : 1 ≤ 32 ∧ 32 ≤ 32 ∧ 1 ≤ 2 ∧ 2 + 32 - 1 ≤ 96 ∧ 31 < 32 := by decide
/-- spec/95_test_vectors.md S6: 0x5A written at (29, 8) of an all-zero window. -/
theorem witness_ExtractRoundTrip :
    (1 ≤ 8 ∧ 8 ≤ 32 ∧ 1 ≤ 29 ∧ 29 + 8 - 1 ≤ 96 ∧ 0x5A < 2 ^ 8) ∧
    (0 : Word) ++ (5 : Word) ++ (0xA0000000 : Word) =
      ((0 : BitVec 96) &&& ~~~(BitVec.ofNat 96 (2 ^ 8 - 1) <<< (29 - 1))) ||| (BitVec.ofNat 96 0x5A <<< (29 - 1)) := by
  decide
theorem witness_AdjacentFieldsAreTheLowAndHighParts :
    1 ≤ 16 ∧ 1 ≤ 16 ∧ 16 + 16 ≤ 32 ∧ 1 ≤ 17 ∧ 17 + (16 + 16) - 1 ≤ 96 := by decide
theorem witness_ExtSucceedsExactlyOnLegalRequests : searching.chan.st = 1 ∧ (collecting 0 0).chan.st = 2 := by decide
theorem witness_NopExtAndRdsWriteNothing :
    ∃ t u v, exec .nop searching = .next t ∧ exec (.ext 1 32) searching = .next u ∧ exec (.rds 7) searching = .next v :=
  ⟨_, _, _, rfl, rfl, rfl⟩
theorem witness_UpdBeforeInitRaisesNotInitialised :
    State.reset.chan.st = 0 ∧ (st 3 0 0 0 0 0 0 0 0).chan.st = 3 := by decide
theorem witness_UpdInSearchShiftsTheRawBit :
    searching.chan.st = 1 ∧ ((searching.chan.tm <<< 1) ||| (1 : Bit).setWidth 32) &&& 0x3FFFFFFF ≠ 0x3E375096 := by decide
theorem witness_UpdLocksOnTheTimeMark :
    (st 1 0 0x1F1BA84B 1 0 0 0 0 0).chan.st = 1 ∧
    (((st 1 0 0x1F1BA84B 1 0 0 0 0 0).chan.tm <<< 1) ||| (0 : Bit).setWidth 32) &&& 0x3FFFFFFF = 0x3E375096 ∧
    searching.chan.st = 1 ∧ ((searching.chan.tm <<< 1) ||| (1 : Bit).setWidth 32) &&& 0x3FFFFFFF ≠ 0x3E375096 ∧
    (collecting 0 0).chan.st = 2 := by decide
theorem witness_TimeMarkAlwaysLocksAtItsThirtiethBit : (st 1 0 0x3FFFFFFF 1 0 0 0 0 0).chan.st = 1 := by decide
theorem witness_LockIffTheLastThirtyBitsAreTheTimeMark :
    searching.chan.st = 1 ∧ searching.chan.tm = 0 ∧
    ∀ k ≤ [(1 : Bit)].length, ∃ u, feed ([(1 : Bit)].take k) searching = .next u ∧ u.chan.st = 1 := by
  refine ⟨rfl, rfl, fun k hk => ?_⟩
  obtain rfl | rfl : k = 0 ∨ k = 1 := by
    simp only [List.length_singleton] at hk
    omega
  · exact ⟨_, rfl, rfl⟩
  · exact ⟨_, rfl, rfl⟩
theorem witness_NoCompletionWithin221BitsOfAClear :
    searching.chan.st = 1 ∧ searching.chan.tm = 0 ∧ (List.replicate 221 (1 : Bit)).length ≤ 221 :=
  ⟨rfl, rfl, by rw [List.length_replicate]⟩
theorem witness_FirstHalfOnlySetsMc : (collecting 0 0).chan.st = 2 ∧ (collecting 0 0).chan.mc = 0 := by decide
theorem witness_SecondHalfWritesTheDataBitAtHead :
    (collecting 94 1).chan.st = 2 ∧ (collecting 94 1).chan.mc = 1 ∧ (collecting 94 1).chan.head.toNat < 95 := by decide
theorem witness_CompletedStringIsReportedOrLosesSync :
    (collecting 95 1).chan.st = 2 ∧ (collecting 95 1).chan.mc = 1 ∧ (collecting 95 1).chan.head = 95 := by decide
theorem witness_CursorOutOfRangeUndoesTheCommand :
    (collecting 96 1).chan.st = 2 ∧ (collecting 96 1).chan.mc = 1 ∧ 95 < (collecting 96 1).chan.head.toNat := by decide
theorem witness_LossFlagsReportEveryFailedCheck :
    (collecting 95 1).chan.st = 2 ∧ (collecting 95 1).chan.mc = 1 ∧ (collecting 95 1).chan.head = 95 := by decide
theorem witness_FirstHalfNeverEntersTheResult : (collecting 95 0).chan.st = 2 ∧ (collecting 95 0).chan.mc = 0 := by decide
theorem witness_UpdFrameWhileCollecting :
    (∃ t, (collecting 94 1).chan.st = 2 ∧ exec (.upd 1) (collecting 94 1) = .next t ∧ t.chan.st = 2) ∧
    ∃ t, (collecting 0 0).chan.mc = 0 ∧ exec (.upd 1) (collecting 0 0) = .next t ∧ t.chan.st = 2 :=
  ⟨⟨_, rfl, rfl, rfl⟩, ⟨_, rfl, rfl, rfl⟩⟩
theorem witness_StringCompletesAtIts192ndBit :
    (collecting 0 0).chan.st = 2 ∧ (collecting 0 0).chan.mc = 0 ∧ (collecting 0 0).chan.head = 0 ∧
    (List.replicate 192 (1 : Bit)).length = 192 := ⟨rfl, rfl, rfl, List.length_replicate⟩
theorem witness_StringBitsFillTheWindowInOrder :
    (collecting 0 0).chan.st = 2 ∧ (collecting 0 0).chan.mc = 0 ∧ (collecting 0 0).chan.head = 0 ∧
    (List.replicate 192 (0 : Bit)).length = 192 := ⟨rfl, rfl, rfl, List.length_replicate⟩
theorem witness_FieldsStayIntactInTheExtractionWindow :
    (collecting 0 0).chan.st = 2 ∧ (collecting 0 0).chan.mc = 0 ∧ (collecting 0 0).chan.head = 0 ∧
    1 ≤ 4 ∧ 4 ≤ 32 ∧ 1 ≤ 81 ∧ 81 + 4 - 1 ≤ 96 ∧ (List.replicate 161 (1 : Bit)).length < 2 * 81 := by
  rw [List.length_replicate]
  decide
theorem witness_UpdwLoadsTheWindow :
    (collecting 0 0).chan.st = 2 ∧ (collecting 0 0).chan.mc = 0 ∧ (collecting 0 0).chan.head = 0 := by decide
theorem witness_ViolationsLeaveNoTrace :
    ((State.reset.sendFirst 0xA000).inbox = .command (State.reset.sendFirst 0xA000).before.length 0xA000 :: [] ∧
      decode 0xA000 = .error .reservedOpcode) ∧
    ∃ v, (violationResponse .badWidth).violation = some v ∧
      exec (.ext 1 0) searching = .next (searching.respond (violationResponse .badWidth)) := ⟨by decide, _, rfl, rfl⟩
/-- One state for each row of the transition table. -/
theorem witness_TransitionTable :
    (∃ t, exec (.upd 1) State.reset = .next t) ∧ (∃ t, exec (.upd 1) searching = .next t) ∧
    (∃ t, exec (.upd 0) (st 1 0 0x1F1BA84B 1 0 0 0 0 0) = .next t) ∧ (∃ t, exec (.upd 1) (collecting 0 0) = .next t) ∧
    (∃ t, exec (.upd 1) (collecting 94 1) = .next t) ∧ (∃ t, exec (.upd 1) (collecting 95 1) = .next t) ∧
    (∃ t, exec .init searching = .next t) ∧ (∃ t, exec (.ext 1 32) searching = .next t) :=
  ⟨exec_answers _ _, exec_answers _ _, exec_answers _ _, exec_answers _ _, exec_answers _ _, exec_answers _ _,
    exec_answers _ _, exec_answers _ _⟩
theorem witness_OnlyInitAndASuccessfulStringWriteNextId :
    ∃ t, exec .init State.reset = .next t ∧ t.responses = (State.reset.before.length, {}) :: State.reset.responses ∧
      t.chan.nextId ≠ State.reset.chan.nextId := ⟨_, rfl, rfl, by decide⟩
theorem witness_EveryStepKeepsTheInvariant :
    ∃ t, (State.reset.sendFirst 0x2000).Inv ∧ step (State.reset.sendFirst 0x2000) = .next t := ⟨_, by decide, rfl⟩
theorem witness_CursorRangeIsNeverAnswered :
    ∃ t, (State.reset.sendFirst 0x4001).Inv ∧ step (State.reset.sendFirst 0x4001) = .next t ∧
      t.responses = (0, violationResponse .notInitialised) :: (State.reset.sendFirst 0x4001).responses :=
  ⟨_, by decide, rfl, rfl⟩
theorem witness_UpdNeverRaisesOnceInitialised :
    searching.chan.Inv ∧ searching.chan.st ≠ 0 ∧ searching.noViolation = true := by decide
theorem witness_InstancesShareNothing :
    ∃ t t', ({ State.resetWith 1 with inbox := [.command 0 0x2000] } : State).inbox = .command 0 0x2000 :: [] ∧
      ({ State.reset with inbox := [.command 0 0x2000] } : State).inbox.head? = some (.command 0 0x2000) ∧
      (State.resetWith 1).channels[(0 : Nat)]? = State.reset.channels[(0 : Nat)]? ∧
      step { State.resetWith 1 with inbox := [.command 0 0x2000] } = .next t ∧
      step { State.reset with inbox := [.command 0 0x2000] } = .next t' := ⟨_, _, rfl, rfl, rfl, rfl, rfl⟩
theorem witness_InstancesShareNothing_powerOnReset :
    ∃ t t', ({ State.resetWith 1 with inbox := [.powerOnReset 0] } : State).inbox = .powerOnReset 0 :: [] ∧
      ({ State.reset with inbox := [.powerOnReset 0] } : State).inbox.head? = some (.powerOnReset 0) ∧
      (State.resetWith 1).channels[(0 : Nat)]? = State.reset.channels[(0 : Nat)]? ∧
      step { State.resetWith 1 with inbox := [.powerOnReset 0] } = .next t ∧
      step { State.reset with inbox := [.powerOnReset 0] } = .next t' := ⟨_, _, rfl, rfl, rfl, rfl, rfl⟩
theorem witness_CommandsToDifferentInstancesCommute :
    0 ≠ 1 ∧ 0 < (State.resetWith 1).channels.length ∧ 1 < (State.resetWith 1).channels.length := by decide

end Sys2Proof.Tests
end

section
/-! SUPPORT. What one UPD, one command and one input do to the registers of the addressed instance, said once; every proof about
the state goes through these. -/

namespace Sys2Proof.Machine

/-! ### UPD -/

/-- The registers the string check sees: the pair's data bit in slot 95, the cursor back at 0 (spec/42_sync_engine.md R105,
R106). -/
def Channel.filled (c : Channel) (b : Bit) : Channel :=
  { c with mc := 0, win := memWrite c.win 95 (b ^^^ c.phase), head := 0 }

@[simp] theorem Channel.filled_st (c : Channel) (b : Bit) : (c.filled b).st = c.st := rfl
@[simp] theorem Channel.filled_head (c : Channel) (b : Bit) : (c.filled b).head = 0 := rfl
@[simp] theorem Channel.filled_tm (c : Channel) (b : Bit) : (c.filled b).tm = c.tm := rfl
@[simp] theorem Channel.filled_nextId (c : Channel) (b : Bit) : (c.filled b).nextId = c.nextId := rfl
@[simp] theorem Channel.filled_mc (c : Channel) (b : Bit) : (c.filled b).mc = 0 := rfl
@[simp] theorem Channel.filled_phase (c : Channel) (b : Bit) : (c.filled b).phase = c.phase := rfl
@[simp] theorem Channel.filled_win (c : Channel) (b : Bit) :
    (c.filled b).win = memWrite c.win 95 (b ^^^ c.phase) := rfl

/-- Everything UPD can do in COLLECT: a first half, a second half with the cursor out of range, within the string, and at its
last slot. -/
theorem collectBit_cases (p : Config.Params) (b : Bit) (c : Channel) :
    (c.mc = 0 ∧ collectBit p b c = .ok ({ c with mc := 1 }, {})) ∨
    (c.mc = 1 ∧ 95 < c.head.toNat ∧ collectBit p b c = .error .cursorRange) ∨
    (c.mc = 1 ∧ c.head.toNat < 95 ∧ collectBit p b c =
      .ok ({ c with mc := 0, win := memWrite c.win c.head.toNat (b ^^^ c.phase), head := c.head + 1 }, {})) ∨
    (c.mc = 1 ∧ c.head = 95 ∧ collectBit p b c = .ok (completeString p (c.filled b))) := by
  obtain hmc | hmc := bit_cases c.mc
  · exact .inl ⟨hmc, collectBit_first hmc⟩
  · rw [collectBit_second hmc]
    obtain ⟨hh, hw⟩ | ⟨hh, hw⟩ | ⟨hh, hw⟩ := writeDataBit_cases p (b ^^^ c.phase) { c with mc := 0 }
    · exact .inr (.inl ⟨hmc, hh, hw⟩)
    · exact .inr (.inr (.inl ⟨hmc, hh, hw⟩))
    · exact .inr (.inr (.inr ⟨hmc, hh, hw⟩))

/-- Everything UPD can do when it completes (R100). -/
theorem updChannel_ok_cases {p : Config.Params} {b : Bit} {c c' : Channel} {r : Response}
    (h : updChannel p b c = .ok (c', r)) :
    (c.st = 1 ∧ c' = searchBit p b c ∧ r = {}) ∨
    (c.st = 2 ∧ c' = { c with mc := 1 } ∧ r = {}) ∨
    (c.st = 2 ∧ c.head.toNat < 95 ∧
      c' = { c with mc := 0, win := memWrite c.win c.head.toNat (b ^^^ c.phase), head := c.head + 1 } ∧ r = {}) ∨
    (c.st = 2 ∧ (c', r) = completeString p (c.filled b)) := by
  obtain ⟨_, hs⟩ | ⟨_, hs⟩ | ⟨_, hs⟩ := c.mode_cases
  · rw [updChannel_search hs] at h
    cases h
    exact .inl ⟨hs, rfl, rfl⟩
  · rw [updChannel_collect hs] at h
    obtain ⟨_, hc⟩ | ⟨_, _, hc⟩ | ⟨_, hh, hc⟩ | ⟨_, _, hc⟩ := collectBit_cases p b c <;> rw [hc] at h
    · cases h
      exact .inr (.inl ⟨hs, rfl, rfl⟩)
    · cases h
    · cases h
      exact .inr (.inr (.inl ⟨hs, hh, rfl, rfl⟩))
    · exact .inr (.inr (.inr ⟨hs, (Except.ok.inj h).symm⟩))
  · rw [updChannel_invalid hs] at h
    cases h

/-- UPD raises NOT_INITIALISED, or CURSOR_RANGE with the cursor beyond the window (R100, R111). -/
theorem updChannel_error_cases {p : Config.Params} {b : Bit} {c : Channel} {v : Violation}
    (h : updChannel p b c = .error v) :
    v = .notInitialised ∨ (v = .cursorRange ∧ 95 < c.head.toNat) := by
  obtain ⟨_, hs⟩ | ⟨_, hs⟩ | ⟨_, hs⟩ := c.mode_cases
  · rw [updChannel_search hs] at h
    cases h
  · rw [updChannel_collect hs] at h
    obtain ⟨_, hc⟩ | ⟨_, hh, hc⟩ | ⟨_, _, hc⟩ | ⟨_, _, hc⟩ := collectBit_cases p b c <;> rw [hc] at h
    · cases h
    · cases h
      exact .inr ⟨rfl, hh⟩
    · cases h
    · cases h
  · rw [updChannel_invalid hs] at h
    cases h
    exact .inl rfl

/-- EXT's tests are about STATE and its operands, never about the cursor (R80). -/
theorem extField_error_ne_cursorRange {c : Channel} {i n : Nat} {v : Violation} (h : extField c i n = .error v) :
    v ≠ .cursorRange := by
  obtain ⟨_, he⟩ | ⟨_, u, hu, he⟩ | ⟨_, _, he⟩ := extField_cases c i n <;> rw [he] at h <;> cases h
  · decide
  · rintro rfl
    rw [requestViolation_eq] at hu
    split_ifs at hu <;> cases hu

/-- EXT writes no register (R85). -/
theorem extField_ok_fst {c c' : Channel} {i n : Nat} {r : Response} (h : extField c i n = .ok (c', r)) : c' = c := by
  obtain ⟨_, he⟩ | ⟨_, u, _, he⟩ | ⟨_, _, he⟩ := extField_cases c i n <;> rw [he] at h <;> cases h
  rfl

/-- A search never writes NEXT_ID (R103). -/
@[simp] theorem searchBit_nextId (p : Config.Params) (b : Bit) (c : Channel) :
    (searchBit p b c).nextId = c.nextId := by
  obtain ⟨_, he⟩ | ⟨_, he⟩ := searchBit_cases p b c
  · rw [he, Channel.lock_nextId]
  · rw [he]

@[simp] theorem completeString_violation (p : Config.Params) (c : Channel) :
    (completeString p c).2.violation = none := by
  obtain ⟨_, he⟩ | ⟨_, he⟩ := completeString_cases p c <;> rw [he]

/-- A UPD that completes answers no violation. -/
theorem updChannel_ok_violation {p : Config.Params} {b : Bit} {c c' : Channel} {r : Response}
    (h : updChannel p b c = .ok (c', r)) : r.violation = none := by
  obtain ⟨_, _, rfl⟩ | ⟨_, _, rfl⟩ | ⟨_, _, _, rfl⟩ | ⟨_, heq⟩ := updChannel_ok_cases h
  · rfl
  · rfl
  · rfl
  · rw [show r = (completeString p (c.filled b)).2 from congrArg Prod.snd heq, completeString_violation]

/-- A UPD that leaves COLLECT for SEARCH is a sync loss (R126). -/
theorem updChannel_eq_syncLoss {p : Config.Params} {b : Bit} {c c' : Channel} {r : Response} (hs : c.st = 2)
    (h : updChannel p b c = .ok (c', r)) (hs' : c'.st = 1) : c' = c.syncLoss := by
  have hstay : c'.st ≠ c.st := by
    rw [hs, hs']
    decide
  obtain ⟨hsearch, _⟩ | ⟨_, rfl, _⟩ | ⟨_, _, rfl, _⟩ | ⟨_, heq⟩ := updChannel_ok_cases h
  · exact absurd (hs.symm.trans hsearch) (by decide)
  · exact absurd rfl hstay
  · exact absurd rfl hstay
  · obtain ⟨_, he⟩ | ⟨_, he⟩ := completeString_cases p (c.filled b) <;> rw [he] at heq <;> cases heq
    · exact absurd rfl hstay
    · rfl

/-- A UPD that changes NEXT_ID completed a string whose checks passed (R125). -/
theorem updChannel_status_of_nextId_ne {p : Config.Params} {b : Bit} {c c' : Channel} {r : Response}
    (h : updChannel p b c = .ok (c', r)) (hid : c'.nextId ≠ c.nextId) : r.status = .stringReady := by
  obtain ⟨_, rfl, _⟩ | ⟨_, rfl, _⟩ | ⟨_, _, rfl, _⟩ | ⟨_, heq⟩ := updChannel_ok_cases h
  · exact absurd (searchBit_nextId p b c) hid
  · exact absurd rfl hid
  · exact absurd rfl hid
  · obtain ⟨_, he⟩ | ⟨_, he⟩ := completeString_cases p (c.filled b) <;> rw [he] at heq <;> cases heq
    · rfl
    · exact absurd rfl hid

/-! ### A command -/

/-- The registers and the response a command ends with: a violation leaves the registers and answers its code
(spec/60_exceptions.md R147). -/
def commandEffect (i : Instr) (c : Channel) : Channel × Response :=
  match outcomeOn i c with
  | .ok cr => cr
  | .error v => (c, violationResponse v)

theorem commandEffect_of_ok {i : Instr} {c : Channel} {cr : Channel × Response} (h : outcomeOn i c = .ok cr) :
    commandEffect i c = cr := by
  simp [commandEffect, h]

theorem commandEffect_of_error {i : Instr} {c : Channel} {v : Violation} (h : outcomeOn i c = .error v) :
    commandEffect i c = (c, violationResponse v) := by
  simp [commandEffect, h]

/-- A command writes the addressed registers and adds one response of the addressed instance, both computed from those registers
alone. -/
theorem exec_eq_commandEffect (i : Instr) (s : State) :
    exec i s = .next { s with
      chan := (commandEffect i s.chan).1, responses := (s.before.length, (commandEffect i s.chan).2) :: s.responses } := by
  rw [exec_eq_deliver]
  cases h : outcomeOn i s.chan with
  | ok cr => rw [commandEffect_of_ok h, ← deliver_ok]
  | error v => rw [commandEffect_of_error h, deliver_error]; rfl

/-- A command that completes answers no violation. -/
theorem outcomeOn_ok_violation {i : Instr} {c : Channel} {cr : Channel × Response} (h : outcomeOn i c = .ok cr) :
    cr.2.violation = none := by
  cases i with
  | nop | init | rds =>
    cases h
    rfl
  | upd b => exact updChannel_ok_violation h
  | ext k n =>
    obtain ⟨_, he⟩ | ⟨_, _, _, he⟩ | ⟨_, _, he⟩ := extField_cases c k n <;> cases he.symm.trans h
    rfl

/-! ### An input -/

/-- The registers an input leaves in the instance it is addressed to, and its response if it has one: none for a power-on
reset. -/
def Input.effect : Input → Channel → Channel × Option Response
  | .powerOnReset _, _ => (Channel.reset, none)
  | .command _ w, c =>
    match decode w with
    | .ok i => ((commandEffect i c).1, some (commandEffect i c).2)
    | .error _ => (c, some (violationResponse .illegalCommand))

@[simp] theorem Input.effect_powerOnReset (k : Nat) (c : Channel) :
    (Input.powerOnReset k).effect c = (Channel.reset, none) := rfl

theorem Input.effect_of_ok {w : CommandWord} {i : Instr} (h : decode w = .ok i) (k : Nat) (c : Channel) :
    (Input.command k w).effect c = ((commandEffect i c).1, some (commandEffect i c).2) := by
  simp [effect, h]

theorem Input.effect_of_error {w : CommandWord} {e : DecodeError} (h : decode w = .error e) (k : Nat) (c : Channel) :
    (Input.command k w).effect c = (c, some (violationResponse .illegalCommand)) := by
  simp [effect, h]

@[simp] theorem State.mk_channels (pre post : List Channel) (c : Channel) (inbox : List Input)
    (responses : List (Nat × Response)) : (State.mk pre c post inbox responses).channels = pre ++ c :: post := rfl
@[simp] theorem powerOn_channels (s : State) : (powerOn s).channels = s.before ++ Channel.reset :: s.after := rfl
@[simp] theorem illegalCommand_channels (s : State) : (illegalCommand s).channels = s.channels := rfl
@[simp] theorem illegalCommand_inbox (s : State) : (illegalCommand s).inbox = s.inbox := rfl
@[simp] theorem illegalCommand_responses (s : State) :
    (illegalCommand s).responses = (s.before.length, violationResponse .illegalCommand) :: s.responses := rfl

/-- A step on an input: the instance it is addressed to takes the input's effect on its own registers, in its place among the
instances, and the effect's response, if any, is added to the record. -/
theorem step_next_effect {s t : State} {x : Input} {rest : List Input} (hi : s.inbox = x :: rest)
    (h : step s = .next t) :
    t.inbox = rest ∧ ∃ c, s.channels[x.target]? = some c ∧ t.channels = s.channels.set x.target (x.effect c).1 ∧
      t.responses = (x.effect c).2.toList.map (x.target, ·) ++ s.responses := by
  obtain ⟨hnil, _⟩ | ⟨y, rest', pre, c, post, hy, hc, hl, hcase⟩ := step_cases h
  · rw [hi] at hnil
    cases hnil
  · rw [hi] at hy
    cases hy
    rw [hc, ← hl]
    obtain ⟨k, rfl, rfl⟩ | ⟨k, w, rfl, ⟨i, hd, he⟩ | ⟨e, hd, rfl⟩⟩ := hcase
    · simp
    · rw [exec_eq_commandEffect] at he
      cases he
      simp [Input.effect_of_ok hd]
    · simp [Input.effect_of_error hd]

end Sys2Proof.Machine
end

section
/-! PROOFS. The statements about the state: the register invariant and what follows from it, the independence of the instances,
and the values and writers of the registers. -/

namespace Sys2Proof.Machine

/-! ### The invariant by STATE -/

/-- The invariant of a searching instance (spec/10_state.md R12, R14, R21). -/
theorem Channel.inv_iff_of_search {c : Channel} (h : c.st = 1) :
    c.Inv ↔ c.head = 0 ∧ c.mc = 0 ∧ c.phase = 0 ∧ c.win = ⟨0, 0, 0⟩ ∧ c.tm ≠ 0x3E375096 ∧ c.tm.toNat < 2 ^ 30 ∧
      1 ≤ c.nextId.toNat := by
  constructor
  · rintro ⟨_, htm, _, _, hsearch, _, hid⟩
    obtain ⟨hh, hmc, hp, hw, hne⟩ := hsearch h
    exact ⟨hh, hmc, hp, hw, hne, htm, hid (by simp [h])⟩
  · rintro ⟨hh, hmc, hp, hw, hne, htm, hid⟩
    exact ⟨by simp [hh], htm, by simp [h], by simp [h], fun _ => ⟨hh, hmc, hp, hw, hne⟩, by simp [h], fun _ => hid⟩

/-- The invariant of a collecting instance (R12, R14, R16, R18). -/
theorem Channel.inv_iff_of_collect {c : Channel} (h : c.st = 2) :
    c.Inv ↔ c.head.toNat ≤ 95 ∧ c.tm = 0x3E375096 ∧ c.phase = Config.phaseAtLock ∧ 1 ≤ c.nextId.toNat := by
  constructor
  · rintro ⟨hh, _, _, _, _, hcollect, hid⟩
    obtain ⟨htm, hp⟩ := hcollect h
    exact ⟨hh, htm, hp, hid (by simp [h])⟩
  · rintro ⟨hh, htm, hp, hid⟩
    exact ⟨hh, by simp [htm], by simp [h], by simp [h], by simp [h], fun _ => ⟨htm, hp⟩, fun _ => hid⟩

/-- Collecting, the invariant is kept with STATE, TM and PHASE, if HEAD and NEXT_ID stay in their ranges. -/
theorem Channel.Inv.of_collect {c c' : Channel} (h : c.Inv) (hs : c.st = 2) (hst : c'.st = c.st) (htm : c'.tm = c.tm)
    (hp : c'.phase = c.phase) (hh : c'.head.toNat ≤ 95) (hid : 1 ≤ c'.nextId.toNat) : c'.Inv := by
  obtain ⟨_, htm', hp', _⟩ := (inv_iff_of_collect hs).mp h
  exact (inv_iff_of_collect (hst.trans hs)).mpr ⟨hh, htm.trans htm', hp.trans hp', hid⟩

theorem Channel.reset_inv : Channel.reset.Inv := by decide

theorem Channel.initialised_inv : Channel.initialised.Inv := by decide

/-- A sync loss leaves a searching instance with a cleared TM and the NEXT_ID it had (R126). -/
theorem Channel.syncLoss_inv {c : Channel} (h : 1 ≤ c.nextId.toNat) : c.syncLoss.Inv :=
  (inv_iff_of_search rfl).mpr ⟨rfl, rfl, rfl, rfl, by simp, by simp, h⟩

/-! ### UPD keeps it -/

/-- The mask of R101 keeps TM within 30 bits. -/
theorem shiftedTm_lt (tm : Word) (b : Bit) : (shiftedTm tm b).toNat < 2 ^ 30 := by
  have h : (shiftedTm tm b).toNat ≤ Config.tmMask.toNat := by
    rw [shiftedTm, BitVec.toNat_and]
    exact Nat.and_le_right
  exact Nat.lt_of_le_of_lt h (by decide)

/-- A searching instance locks with the pattern in TM, or goes on searching without it. -/
theorem searchBit_inv {b : Bit} {c : Channel} (hs : c.st = 1) (h : c.Inv) : (searchBit Config.params b c).Inv := by
  obtain ⟨hh, hmc, hp, hw, _, _, hid⟩ := (Channel.inv_iff_of_search hs).mp h
  obtain ⟨hm, he⟩ | ⟨hm, he⟩ := searchBit_cases Config.params b c <;> rw [he]
  · have htm : shiftedTm c.tm b = 0x3E375096 := (isTimeMark_shiftedTm c.tm b).mp hm
    exact (Channel.inv_iff_of_collect rfl).mpr ⟨by simp, htm, rfl, hid⟩
  · have htm : shiftedTm c.tm b ≠ 0x3E375096 :=
      mt (isTimeMark_shiftedTm c.tm b).mpr (Bool.eq_false_iff.mp hm)
    exact (Channel.inv_iff_of_search (c := { c with tm := shiftedTm c.tm b }) hs).mpr
      ⟨hh, hmc, hp, hw, htm, shiftedTm_lt c.tm b, hid⟩

/-- The successor of a string number is a string number, never 0 (R14, R125). -/
theorem successor_pos (sn : BitVec 4) : 1 ≤ (successor sn).toNat := by
  revert sn
  decide

/-- A completed string leaves a collecting instance with a new NEXT_ID, or loses sync. -/
theorem completeString_inv {p : Config.Params} {c : Channel} (hs : c.st = 2) (h : c.Inv) :
    (completeString p c).1.Inv := by
  obtain ⟨hh, _, _, hid⟩ := (Channel.inv_iff_of_collect hs).mp h
  obtain ⟨_, he⟩ | ⟨_, he⟩ := completeString_cases p c <;> rw [he]
  · exact h.of_collect hs rfl rfl rfl hh (successor_pos _)
  · exact Channel.syncLoss_inv hid

/-- UPD keeps the invariant. -/
theorem updChannel_inv {b : Bit} {c c' : Channel} {r : Response} (h : c.Inv)
    (he : updChannel Config.params b c = .ok (c', r)) : c'.Inv := by
  obtain ⟨hs, rfl, _⟩ | ⟨hs, rfl, _⟩ | ⟨hs, hlt, rfl, _⟩ | ⟨hs, heq⟩ := updChannel_ok_cases he
  · exact searchBit_inv hs h
  · obtain ⟨hh, _, _, hid⟩ := (Channel.inv_iff_of_collect hs).mp h
    exact h.of_collect hs rfl rfl rfl hh hid
  · obtain ⟨_, _, _, hid⟩ := (Channel.inv_iff_of_collect hs).mp h
    have hh : (c.head + 1).toNat ≤ 95 := by
      rw [BitVec.toNat_add]
      change (c.head.toNat + 1) % 128 ≤ 95
      omega
    exact h.of_collect hs rfl rfl rfl hh hid
  · obtain ⟨_, _, _, hid⟩ := (Channel.inv_iff_of_collect hs).mp h
    have hfilled : (c.filled b).Inv := h.of_collect hs rfl rfl rfl (by simp) hid
    rw [show c' = (completeString Config.params (c.filled b)).1 from congrArg Prod.fst heq]
    exact completeString_inv hs hfilled

/-! ### Every command, every input and every step keep it -/

theorem commandEffect_inv (i : Instr) {c : Channel} (h : c.Inv) : (commandEffect i c).1.Inv := by
  cases ho : outcomeOn i c with
  | error v => rwa [commandEffect_of_error ho]
  | ok cr =>
    rw [commandEffect_of_ok ho]
    obtain ⟨c', r⟩ := cr
    cases i with
    | nop | rds =>
      cases ho
      exact h
    | init =>
      cases ho
      exact Channel.initialised_inv
    | upd b => exact updChannel_inv h ho
    | ext k n => exact extField_ok_fst ho ▸ h

theorem Input.effect_inv (x : Input) {c : Channel} (h : c.Inv) : (x.effect c).1.Inv := by
  cases x with
  | powerOnReset k => exact Channel.reset_inv
  | command k w =>
    cases hd : decode w with
    | ok i =>
      rw [effect_of_ok hd]
      exact commandEffect_inv i h
    | error e => rwa [effect_of_error hd]

/-- Settles O47: a step gives the addressed instance an input's effect, which keeps the invariant, and leaves the others. -/
theorem everyStepKeepsTheInvariant : Obligations.EveryStepKeepsTheInvariant := by
  unfold Obligations.EveryStepKeepsTheInvariant
  intro s t hinv h
  cases hi : s.inbox with
  | nil =>
    rw [step_of_no_input hi] at h
    cases h
    exact hinv
  | cons x rest =>
    obtain ⟨_, c, hc, hchannels, _⟩ := step_next_effect hi h
    intro d hd
    rw [hchannels] at hd
    obtain hd | rfl := List.mem_or_eq_of_mem_set hd
    · exact hinv d hd
    · exact x.effect_inv (hinv c (List.mem_of_getElem? hc))

/-! ### No step answers CURSOR_RANGE -/

/-- UPD and EXT, where HEAD is within the window, never raise CURSOR_RANGE; the other commands raise nothing. -/
theorem outcomeOn_error_ne_cursorRange {i : Instr} {c : Channel} {v : Violation} (h : c.head.toNat ≤ 95)
    (ho : outcomeOn i c = .error v) : v ≠ .cursorRange := by
  cases i with
  | nop | init | rds => cases ho
  | ext k n => exact extField_error_ne_cursorRange ho
  | upd b =>
    obtain rfl | ⟨_, hh⟩ := updChannel_error_cases ho
    · decide
    · omega

theorem commandEffect_ne_cursorRange (i : Instr) {c : Channel} (h : c.head.toNat ≤ 95) :
    (commandEffect i c).2.violation ≠ some .cursorRange := by
  cases ho : outcomeOn i c with
  | error v =>
    rw [commandEffect_of_error ho]
    exact fun hv => outcomeOn_error_ne_cursorRange h ho (Option.some.inj hv)
  | ok cr =>
    rw [commandEffect_of_ok ho, outcomeOn_ok_violation ho]
    exact fun hv => nomatch hv

theorem Input.effect_ne_cursorRange {x : Input} {c : Channel} {r : Response} (h : c.head.toNat ≤ 95)
    (hr : (x.effect c).2 = some r) : r.violation ≠ some .cursorRange := by
  cases x with
  | powerOnReset k => cases hr
  | command k w =>
    cases hd : decode w with
    | ok i =>
      rw [effect_of_ok hd] at hr
      cases hr
      exact commandEffect_ne_cursorRange i h
    | error e =>
      rw [effect_of_error hd] at hr
      cases hr
      decide

/-- Settles O48: within the invariant HEAD is at most 95, and only a UPD with HEAD beyond the window raises CURSOR_RANGE. -/
theorem cursorRangeIsNeverAnswered : Obligations.CursorRangeIsNeverAnswered := by
  unfold Obligations.CursorRangeIsNeverAnswered
  intro s t k r hinv h hr
  cases hi : s.inbox with
  | nil =>
    rw [step_of_no_input hi] at h
    cases h
    exact absurd hr.symm (List.cons_ne_self _ _)
  | cons x rest =>
    obtain ⟨_, c, hc, _, hresponses⟩ := step_next_effect hi h
    obtain ⟨hh, _⟩ := hinv c (List.mem_of_getElem? hc)
    rw [hresponses] at hr
    cases hx : (x.effect c).2 with
    | none => simp [hx] at hr
    | some r' =>
      rw [hx] at hr
      cases hr
      exact Input.effect_ne_cursorRange hh hx

/-! ### Instances share nothing -/

/-- Settles O50: a step puts the addressed instance's effect in its place and on the record, and the effect is computed
from the registers of that one alone. -/
theorem instancesShareNothing : Obligations.InstancesShareNothing := by
  unfold Obligations.InstancesShareNothing
  constructor
  · intro s t x rest hi h
    obtain ⟨_, c, _, hchannels, _⟩ := step_next_effect hi h
    rw [hchannels]
    exact ⟨List.length_set, fun j hj => List.getElem?_set_ne hj.symm⟩
  · intro s s' t t' x hi hi' hsame h h'
    obtain ⟨rest, hi⟩ := List.head?_eq_some_iff.mp hi
    obtain ⟨rest', hi'⟩ := List.head?_eq_some_iff.mp hi'
    obtain ⟨_, c, hc, hchannels, hresponses⟩ := step_next_effect hi h
    obtain ⟨_, c', hc', hchannels', hresponses'⟩ := step_next_effect hi' h'
    obtain rfl : c = c' := Option.some.inj (by rw [← hc, hsame, hc'])
    refine ⟨?_, _, hresponses, hresponses'⟩
    rw [hchannels, hchannels', List.getElem?_set_self', List.getElem?_set_self', hsame]

/-! ### Reset, INIT and the sync loss -/

/-- Every instance of a machine after power-on reset is a reset one, whatever their number (R26). -/
theorem State.mem_channels_resetWith {more : Nat} {c : Channel} (h : c ∈ (State.resetWith more).channels) :
    c = Channel.reset := by
  obtain h | h := List.mem_cons.mp h
  · exact h
  · exact List.eq_of_mem_replicate h

/-- Settles O46: every instance is a reset one, and a reset instance meets the invariant. -/
theorem invariantHoldsAtReset : Obligations.InvariantHoldsAtReset := by
  unfold Obligations.InvariantHoldsAtReset
  intro more c hc
  rw [State.mem_channels_resetWith hc]
  exact Channel.reset_inv

/-- Settles O11: by the registers after reset, after INIT, and after the only UPD that leaves COLLECT. -/
theorem registerValuesAfterResetInitAndSyncLoss : Obligations.RegisterValuesAfterResetInitAndSyncLoss := by
  unfold Obligations.RegisterValuesAfterResetInitAndSyncLoss
  refine ⟨fun more => ⟨?_, fun c hc => ?_⟩, fun s => ?_, fun s t b hs h hs' => ?_⟩
  · simp [State.resetWith]
  · rw [State.mem_channels_resetWith hc]
    decide
  · exact ⟨_, rfl, by simp⟩
  · rw [exec_eq_commandEffect] at h
    cases h
    have hloss : (commandEffect (.upd b) s.chan).1 = s.chan.syncLoss := by
      cases ho : outcomeOn (.upd b) s.chan with
      | ok cr =>
        rw [commandEffect_of_ok ho] at hs' ⊢
        exact updChannel_eq_syncLoss hs ho hs'
      | error v =>
        rw [commandEffect_of_error ho] at hs'
        exact absurd (hs.symm.trans hs') (by decide)
    rw [hloss]
    simp

/-! ### NEXT_ID -/

theorem commandEffect_of_nextId_ne {i : Instr} {c : Channel} (h : (commandEffect i c).1.nextId ≠ c.nextId) :
    i = .init ∨ ((∃ b, i = .upd b) ∧ (commandEffect i c).2.status = .stringReady) := by
  cases ho : outcomeOn i c with
  | error v =>
    rw [commandEffect_of_error ho] at h
    exact absurd rfl h
  | ok cr =>
    rw [commandEffect_of_ok ho] at h ⊢
    cases i with
    | init => exact .inl rfl
    | upd b => exact .inr ⟨⟨b, rfl⟩, updChannel_status_of_nextId_ne ho h⟩
    | ext k n => exact absurd (congrArg Channel.nextId (extField_ok_fst ho)) h
    | nop | rds =>
      cases ho
      exact absurd rfl h

/-- Settles O45, by the cases of the command on the addressed registers. -/
theorem onlyInitAndASuccessfulStringWriteNextId : Obligations.OnlyInitAndASuccessfulStringWriteNextId := by
  unfold Obligations.OnlyInitAndASuccessfulStringWriteNextId
  intro i s t r h hr hid
  rw [exec_eq_commandEffect] at h
  cases h
  cases hr
  exact commandEffect_of_nextId_ne hid

/-! ### Power-on reset -/

/-- Settles O9, by the step on a power-on reset. -/
theorem stepPowersAnInstanceOn : Obligations.StepPowersAnInstanceOn := by
  unfold Obligations.StepPowersAnInstanceOn
  intro s rest pre post c hc hi
  exact step_of_powerOn hc hi

end Sys2Proof.Machine
end

section
/-! SUPPORT. The window read by bit and by field (spec/20_memory.md): what Extract answers on a legal request, bit by bit and as a
number, and the statements of the window's family. -/

namespace Sys2Proof.Machine

/-! ### One bit -/

/-- Word selection by tests on the number of the word. -/
theorem Window.word_eq_ite (w : Window) (slot : Nat) :
    w.word slot = if slot = 0 then w.w0 else if slot = 1 then w.w1 else w.w2 := by
  match slot with
  | 0 => rfl
  | 1 => rfl
  | _ + 2 => simp [Window.word]

/-- A one-bit read is that bit of the 96-bit view. -/
theorem memBit_eq_ofBool (w : Window) (addr : Nat) : memBit w addr = BitVec.ofBool (w.w96.getLsbD addr) := by
  apply BitVec.eq_of_getLsbD_eq
  intro j hj
  obtain rfl : j = 0 := by omega
  simp [memBit]

/-- Settles O17: every bit of the 96-bit view after a write is known, and a one-bit read is a bit of that view. -/
theorem memWriteChangesOneBit : Obligations.MemWriteChangesOneBit := by
  unfold Obligations.MemWriteChangesOneBit
  refine ⟨fun w addr a v hd ha => ?_, rfl⟩
  rw [memBit_eq_ofBool, memBit_eq_ofBool, memWrite_getLsbD w v (by omega) (by omega)]
  by_cases h : a = addr
  · rw [if_pos h, if_pos h]
    obtain rfl | rfl := bit_cases v <;> rfl
  · rw [if_neg h, if_neg h]

/-! ### A field -/

theorem ones_getLsbD {n : Nat} (h : n ≤ 32) (j : Nat) : (ones n).getLsbD j = decide (j < n) := by
  rw [ones, BitVec.getLsbD_ofNat, Nat.testBit_two_pow_sub_one, ← Bool.decide_and]
  exact decide_eq_decide.mpr ⟨And.right, fun hj => ⟨by omega, hj⟩⟩

/-- `n` bits of one word from bit `b` on, moved to the low end: all of the field in the same-word case, its low part in the crossing
case (R82, R83). -/
theorem field_getLsbD (x : Word) (b : Nat) {n : Nat} (h : n ≤ 32) (j : Nat) :
    ((x >>> b) &&& ones n).getLsbD j = (decide (j < n) && x.getLsbD (b + j)) := by
  rw [BitVec.getLsbD_and, ones_getLsbD h, BitVec.getLsbD_ushiftRight, Bool.and_comm]

/-- Bit `q` of `W[slot]` stands at `32 * slot + q` in the 96-bit view (R31, R32). -/
theorem Window.word_getLsbD (w : Window) {slot q a : Nat} (hq : q < 32) (ha : a < 96) (h : a = 32 * slot + q) :
    (w.word slot).getLsbD q = w.w96.getLsbD a := by
  rw [Window.w96_getLsbD w ha, show a / 32 = slot by omega, show a % 32 = q by omega]

/-- The same-word case (R82). -/
theorem extract_sameWord (w : Window) {i n : Nat} (h : (i - 1) % 32 + n ≤ 32) :
    extract w i n = (w.word ((i - 1) / 32) >>> ((i - 1) % 32)) &&& ones n :=
  if_pos h

/-- The crossing case (R83). -/
theorem extract_crossing (w : Window) {i n : Nat} (h : ¬(i - 1) % 32 + n ≤ 32) :
    extract w i n =
      (w.word ((i - 1) / 32) >>> ((i - 1) % 32)) &&& ones (32 - (i - 1) % 32) |||
        (w.word ((i - 1) / 32 + 1) &&& ones (n - (32 - (i - 1) % 32))) <<< (32 - (i - 1) % 32) :=
  if_neg h

/-- Extract of a legal request, bit by bit: a bit of the field comes from the word of the field's first bit, or in the crossing
case from the next one (R82, R83). -/
theorem extract_getLsbD (w : Window) {i n : Nat} (hn : n ≤ 32) (hi : 1 ≤ i) (hin : i + n - 1 ≤ 96) (j : Nat) :
    (extract w i n).getLsbD j = (decide (j < n) && w.w96.getLsbD (i - 1 + j)) := by
  by_cases hs : (i - 1) % 32 + n ≤ 32
  · rw [extract_sameWord w hs, field_getLsbD _ _ hn]
    by_cases hj : j < n
    · rw [Window.word_getLsbD w (a := i - 1 + j) (by omega) (by omega) (by omega)]
    · simp only [hj, decide_false, Bool.false_and]
  · rw [extract_crossing w hs, BitVec.getLsbD_or, field_getLsbD _ _ (by omega), BitVec.getLsbD_shiftLeft,
      BitVec.getLsbD_and, ones_getLsbD (by omega)]
    obtain hlow | ⟨hlow, hj⟩ | hj :
        j < 32 - (i - 1) % 32 ∨ (¬j < 32 - (i - 1) % 32 ∧ j < n) ∨ n ≤ j := by omega
    · rw [Window.word_getLsbD w (a := i - 1 + j) (by omega) (by omega) (by omega)]
      simp [hlow, show j < n by omega]
    · rw [Window.word_getLsbD w (q := j - _) (a := i - 1 + j) (by omega) (by omega) (by omega)]
      simp [hlow, hj, show j < 32 by omega, show j - (32 - (i - 1) % 32) < n - (32 - (i - 1) % 32) by omega]
    · simp [show ¬j < 32 - (i - 1) % 32 by omega, show ¬j < n by omega,
        show ¬j - (32 - (i - 1) % 32) < n - (32 - (i - 1) % 32) by omega]

/-- Extract of a legal request is a read of the 96-bit view (R84). -/
theorem extract_eq_memRead (w : Window) {i n : Nat} (hn : n ≤ 32) (hi : 1 ≤ i) (hin : i + n - 1 ≤ 96) :
    extract w i n = memRead w (i - 1) n := by
  apply BitVec.eq_of_getLsbD_eq
  intro j hj
  rw [extract_getLsbD w hn hi hin, memRead_getLsbD, decide_eq_true hj, Bool.true_and]

/-- A read as a number (R36). -/
theorem memRead_toNat (w : Window) (addr : Nat) {n : Nat} (h : n ≤ 32) :
    (memRead w addr n).toNat = w.w96.toNat / 2 ^ addr % 2 ^ n := by
  rw [memRead, BitVec.toNat_setWidth_of_le h, BitVec.extractLsb'_toNat, Nat.shiftRight_eq_div_pow]

/-- Extract of a legal request as a number (R84). -/
theorem extract_toNat (w : Window) {i n : Nat} (hn : n ≤ 32) (hi : 1 ≤ i) (hin : i + n - 1 ≤ 96) :
    (extract w i n).toNat = w.w96.toNat / 2 ^ (i - 1) % 2 ^ n := by
  rw [extract_eq_memRead w hn hi hin, memRead_toNat w _ hn]

/-- Settles O16: the one-bit field at index `i` is bit `i - 1` of the 96-bit view, which lies where R31 says. -/
theorem bitIndexNamesItsWordAndPosition : Obligations.BitIndexNamesItsWordAndPosition := by
  unfold Obligations.BitIndexNamesItsWordAndPosition
  intro w i hi hi'
  refine ⟨?_, memBit_eq_ofBool w (i - 1)⟩
  rw [← Window.word_eq_ite, ← Window.w96_getLsbD w (by omega), extract_toNat w (by omega) hi (by omega)]
  exact (Nat.toNat_testBit _ _).symm

/-- Settles O22: of the number above a field's first bit, its remainder by `2 ^ (n + m)` splits into the remainder by `2 ^ n`
and the remainder of the quotient by `2 ^ m`. -/
theorem adjacentFieldsAreTheLowAndHighParts : Obligations.AdjacentFieldsAreTheLowAndHighParts := by
  unfold Obligations.AdjacentFieldsAreTheLowAndHighParts
  intro w i n m hn hm hw hi hin
  have hquot : w.w96.toNat / 2 ^ (i + n - 1) = w.w96.toNat / 2 ^ (i - 1) / 2 ^ n := by
    rw [Nat.div_div_eq_div_mul, ← Nat.pow_add, show i - 1 + n = i + n - 1 by omega]
  rw [extract_toNat w hw hi hin, extract_toNat w (by omega) hi (by omega),
    extract_toNat w (by omega) (by omega) (by omega), hquot, Nat.pow_add, Nat.mod_mul]

end Sys2Proof.Machine
end

section
/-! PROOFS. The command words (spec/30_encoding.md R51 to R53, R62): each row of the command table as a range of numbers, the
decoder as tests on the number of its word, and from these the statements about the encoding. -/

namespace Sys2Proof

/-! ### The rows of the command table -/

/-- A row whose mask is all but the low `k` bits selects the words that are its pattern above those bits (R51). -/
theorem selects_iff {row : OpcodeRow} (k q : Nat) (hmask : row.mask = BitVec.allOnes 16 <<< k)
    (hpattern : row.pattern.toNat = q * 2 ^ k) (c : CommandWord) : selects row c = true ↔ c.toNat / 2 ^ k = q := by
  have hlt : c.toNat / 2 ^ k * 2 ^ k < 2 ^ 16 := Nat.lt_of_le_of_lt (Nat.div_mul_le_self _ _) c.isLt
  rw [selects, beq_iff_eq, hmask, ← BitVec.shiftLeft_ushiftRight, ← BitVec.toNat_inj, hpattern, BitVec.toNat_shiftLeft,
    BitVec.toNat_ushiftRight, Nat.shiftLeft_eq, Nat.shiftRight_eq_div_pow, Nat.mod_eq_of_lt hlt]
  exact Nat.mul_left_inj (Nat.two_pow_pos k).ne'

theorem selects_rowNop (c : CommandWord) : selects rowNop c = true ↔ c.toNat = 0 := by
  simpa using selects_iff 0 0 (by decide) (by decide) c

theorem selects_rowInit (c : CommandWord) : selects rowInit c = true ↔ c.toNat = 0x2000 := by
  simpa using selects_iff 0 0x2000 (by decide) (by decide) c

theorem selects_rowUpd (c : CommandWord) : selects rowUpd c = true ↔ c.toNat / 2 = 0x2000 :=
  selects_iff 1 0x2000 (by decide) (by decide) c

theorem selects_rowExt (c : CommandWord) : selects rowExt c = true ↔ c.toNat / 0x2000 = 3 :=
  selects_iff 13 3 (by decide) (by decide) c

theorem selects_rowRds (c : CommandWord) : selects rowRds c = true ↔ c.toNat / 8 = 0x1000 :=
  selects_iff 3 0x1000 (by decide) (by decide) c

/-- Two rows whose patterns agree on the bits both fix are one row (R51). -/
theorem eq_of_patterns_agree :
    ∀ r₁ ∈ opcodeRows, ∀ r₂ ∈ opcodeRows, r₁.pattern &&& r₂.mask = r₂.pattern &&& r₁.mask → r₁ = r₂ := by decide

/-- Settles O4: the patterns of two rows that match one word agree on the bits both fix. -/
theorem opcodeRowsAreDisjoint : Obligations.OpcodeRowsAreDisjoint := by
  unfold Obligations.OpcodeRowsAreDisjoint
  intro w r₁ r₂ h₁ h₂ hw₁ hw₂
  refine eq_of_patterns_agree r₁ h₁ r₂ h₂ ?_
  calc r₁.pattern &&& r₂.mask = w &&& r₁.mask &&& r₂.mask := by rw [hw₁]
    _ = w &&& r₂.mask &&& r₁.mask := by rw [BitVec.and_assoc, BitVec.and_comm r₁.mask, ← BitVec.and_assoc]
    _ = r₂.pattern &&& r₁.mask := by rw [hw₂]

/-! ### The decoder by the number of its word -/

theorem extractLsb'_toNat_eq (c : CommandWord) (lo n : Nat) :
    (c.extractLsb' lo n).toNat = c.toNat / 2 ^ lo % 2 ^ n := by
  rw [BitVec.extractLsb'_toNat, Nat.shiftRight_eq_div_pow]

/-- The decoder as tests on the number of the word (R51, R53). -/
theorem decode_eq (c : CommandWord) : decode c =
    if c.toNat = 0 then .ok .nop
    else if c.toNat = 0x2000 then .ok .init
    else if c.toNat / 2 = 0x2000 then .ok (.upd (c.extractLsb' 0 1))
    else if c.toNat / 0x2000 = 3 then .ok (.ext (c.extractLsb' 6 7).toNat (c.extractLsb' 0 6).toNat)
    else if c.toNat / 8 = 0x1000 then .ok (.rds (c.extractLsb' 0 3))
    else if 5 ≤ (opField c).toNat then .error .reservedOpcode
    else .error .mustBeZero := by
  simp only [decode, selects_rowNop, selects_rowInit, selects_rowUpd, selects_rowExt, selects_rowRds]

/-- Every word with opcode 011 is an EXT (R51, R52). -/
theorem decode_of_opcode_ext {c : CommandWord} (h : c.toNat / 0x2000 = 3) :
    decode c = .ok (.ext (c.extractLsb' 6 7).toNat (c.extractLsb' 0 6).toNat) := by
  rw [decode_eq, if_neg (by omega), if_neg (by omega), if_neg (by omega), if_pos h]

/-- A word that decodes has the number its command's row and operands give it (R51, R52). -/
theorem decode_ok_cases {c : CommandWord} {i : Instr} (h : decode c = .ok i) :
    (i = .nop ∧ c.toNat = 0) ∨ (i = .init ∧ c.toNat = 0x2000) ∨
    (∃ b, i = .upd b ∧ c.toNat = 0x4000 + b.toNat) ∨
    (∃ k n, i = .ext k n ∧ k ≤ 127 ∧ n ≤ 63 ∧ c.toNat = 0x6000 + 64 * k + n) ∨
    (∃ sel, i = .rds sel ∧ c.toNat = 0x8000 + sel.toNat) := by
  rw [decode_eq] at h
  split_ifs at h with hnop hinit hupd hext hrds <;> cases h
  · exact .inl ⟨rfl, hnop⟩
  · exact .inr (.inl ⟨rfl, hinit⟩)
  · refine .inr (.inr (.inl ⟨_, rfl, ?_⟩))
    rw [extractLsb'_toNat_eq]
    omega
  · refine .inr (.inr (.inr (.inl ⟨_, _, rfl, ?_⟩)))
    rw [extractLsb'_toNat_eq, extractLsb'_toNat_eq]
    omega
  · refine .inr (.inr (.inr (.inr ⟨_, rfl, ?_⟩)))
    rw [extractLsb'_toNat_eq]
    omega

/-- The words the decoder refuses are those no row selects (R53). -/
theorem decode_error_iff (c : CommandWord) :
    (∃ e, decode c = .error e) ↔
      c.toNat ≠ 0 ∧ c.toNat ≠ 0x2000 ∧ c.toNat / 2 ≠ 0x2000 ∧ c.toNat / 0x2000 ≠ 3 ∧ c.toNat / 8 ≠ 0x1000 := by
  rw [decode_eq]
  split_ifs <;> simp [*]

/-! ### The encoder by the number of its word -/

theorem encode_upd_toNat (b : Bit) : (encode (.upd b)).toNat = 0x4000 + b.toNat := by
  revert b
  decide

theorem encode_ext_toNat {k n : Nat} (hk : k ≤ 127) (hn : n ≤ 63) :
    (encode (.ext k n)).toNat = 0x6000 + 64 * k + n := by
  rw [encode, BitVec.toNat_ofNat]
  omega

theorem encode_rds_toNat (sel : BitVec 3) : (encode (.rds sel)).toNat = 0x8000 + sel.toNat := by
  revert sel
  decide

theorem wellFormed_ext (k n : Nat) : wellFormed (.ext k n) = true ↔ k ≤ 127 ∧ n ≤ 63 := by
  simp [wellFormed]

/-! ### The statements -/

/-- Settles O2: the two operands of EXT are the digits of its word's number; the other commands have finitely many operands. -/
theorem decodeOfEncodeIsTheCommand : Obligations.DecodeOfEncodeIsTheCommand := by
  unfold Obligations.DecodeOfEncodeIsTheCommand
  intro i h
  cases i with
  | nop => decide
  | init => decide
  | upd b => revert b; decide
  | rds sel => revert sel; decide
  | ext k n =>
    obtain ⟨hk, hn⟩ := (wellFormed_ext k n).mp h
    have hw := encode_ext_toNat hk hn
    have hindex : ((encode (.ext k n)).extractLsb' 6 7).toNat = k := by
      rw [extractLsb'_toNat_eq, hw]
      omega
    have hwidth : ((encode (.ext k n)).extractLsb' 0 6).toNat = n := by
      rw [extractLsb'_toNat_eq, hw]
      omega
    rw [decode_of_opcode_ext (by omega), hindex, hwidth]

/-- Settles O3: a word that decodes has the number of its command's word. -/
theorem encodeOfDecodeIsTheWord : Obligations.EncodeOfDecodeIsTheWord := by
  unfold Obligations.EncodeOfDecodeIsTheWord
  intro w i h
  obtain ⟨rfl, hw⟩ | ⟨rfl, hw⟩ | ⟨b, rfl, hw⟩ | ⟨k, n, rfl, hk, hn, hw⟩ | ⟨sel, rfl, hw⟩ := decode_ok_cases h
  · exact ⟨rfl, BitVec.eq_of_toNat_eq hw.symm⟩
  · exact ⟨rfl, BitVec.eq_of_toNat_eq hw.symm⟩
  · exact ⟨rfl, BitVec.eq_of_toNat_eq ((encode_upd_toNat b).trans hw.symm)⟩
  · exact ⟨(wellFormed_ext k n).mpr ⟨hk, hn⟩, BitVec.eq_of_toNat_eq ((encode_ext_toNat hk hn).trans hw.symm)⟩
  · exact ⟨rfl, BitVec.eq_of_toNat_eq ((encode_rds_toNat sel).trans hw.symm)⟩

/-- Settles O5: the refused words by their opcode and the bits their format requires to be 0, all read as numbers. -/
theorem reservedWordsAreExactlyTheIllegalOnes : Obligations.ReservedWordsAreExactlyTheIllegalOnes := by
  unfold Obligations.ReservedWordsAreExactlyTheIllegalOnes
  intro w
  have hlt := w.isLt
  constructor
  · rw [decode_error_iff]
    simp only [ne_eq, ← BitVec.toNat_inj, extractLsb'_toNat_eq, BitVec.reduceToNat]
    omega
  · intro h
    have hop := extractLsb'_toNat_eq w 13 3
    rw [h] at hop
    change 3 = _ at hop
    exact decode_of_opcode_ext (by omega)

/-- Settles O1: the decoder runs on each of the words. -/
theorem specWordsDecodeToTheirCommands : Obligations.SpecWordsDecodeToTheirCommands := by
  unfold Obligations.SpecWordsDecodeToTheirCommands
  decide

end Sys2Proof
end

section
/-! PROOFS. The response record (spec/30_encoding.md R54 to R57): where its fields stand, and what the loss flags report. -/

namespace Sys2Proof.Machine

/-! ### The packed record -/

/-- The low part of two appended fields. -/
theorem low_of_append {v w : Nat} (x : BitVec v) (y : BitVec w) : (x ++ y).extractLsb' 0 w = y := by
  rw [BitVec.extractLsb'_append_eq_of_add_le (Nat.zero_add w).le, BitVec.extractLsb'_eq_self]

/-- A field of the high part stands above the low part's bits. -/
theorem high_of_append {v w start len : Nat} {x : BitVec v} {z : BitVec len} (h : x.extractLsb' start len = z)
    (y : BitVec w) : (x ++ y).extractLsb' (start + w) len = z := by
  rw [BitVec.extractLsb'_append_eq_of_le (Nat.le_add_left w start), Nat.add_sub_cancel, h]

theorem Response.pack_status (r : Response) : r.pack.extractLsb' 36 2 = r.status.code :=
  high_of_append (high_of_append (low_of_append _ _) _) _

theorem Response.pack_errCode (r : Response) : r.pack.extractLsb' 42 3 = r.errCode :=
  high_of_append (high_of_append (high_of_append (high_of_append (high_of_append (low_of_append _ _) _) _) _) _) _

theorem Response.pack_err (r : Response) : r.pack.extractLsb' 45 1 = r.err :=
  high_of_append (high_of_append (high_of_append (high_of_append (high_of_append (high_of_append
    BitVec.extractLsb'_eq_self _) _) _) _) _) _

/-- Settles O6: the fields are appended in the order of the table, so each stands above the widths of those below it; the codes
of statuses and errors are read off their tables. -/
theorem responseRecordIsPackedByItsTable : Obligations.ResponseRecordIsPackedByItsTable := by
  unfold Obligations.ResponseRecordIsPackedByItsTable
  intro r
  refine ⟨low_of_append _ _, high_of_append (low_of_append _ _) _, ?_,
    high_of_append (high_of_append (high_of_append (low_of_append _ _) _) _) _,
    high_of_append (high_of_append (high_of_append (high_of_append (low_of_append _ _) _) _) _) _, ?_, ?_⟩
  · rw [r.pack_status]
    cases r.status <;> rfl
  · rw [r.pack_errCode, Response.errCode]
    obtain _ | v := r.violation
    · rfl
    · cases v <;> rfl
  · rw [r.pack_err, Response.err, Response.errCode]
    obtain _ | v := r.violation
    · rfl
    · cases v <;> rfl

/-! ### The loss flags -/

/-- What a completed string answers in its loss flags is the string check's, whether it passed, with all of them 0, or failed
(R57, R124). -/
theorem completeString_lossFlags (p : Config.Params) (c : Channel) :
    (completeString p c).2.lossFlags = (stringCheck p c).flags := by
  obtain ⟨hok, he⟩ | ⟨_, he⟩ := completeString_cases p c <;> rw [he]
  exact (beq_iff_eq.mp hok).symm

/-- A completed string loses sync exactly when a check failed (R57, R125, R126). -/
theorem completeString_status (p : Config.Params) (c : Channel) :
    (completeString p c).2.status = .syncLoss ↔ (completeString p c).2.lossFlags ≠ 0 := by
  obtain ⟨_, he⟩ | ⟨hok, he⟩ := completeString_cases p c <;> rw [he]
  · simp
  · simpa using beq_eq_false_iff_ne.mp hok

/-- The three flags, one for each check that fails (R121 to R124). -/
theorem stringCheck_flags_getLsbD (p : Config.Params) (c : Channel) :
    ((stringCheck p c).flags.getLsbD 0 = true ↔ stringNumber c.win = 0) ∧
    ((stringCheck p c).flags.getLsbD 1 = true ↔ dummyBit c.win ≠ 0) ∧
    ((stringCheck p c).flags.getLsbD 2 = true ↔ p.hook (c.win.w2 ++ c.win.w1 ++ c.win.w0) c.nextId = 0) := by
  rw [stringCheck_flags]
  generalize p.hook _ _ = x
  generalize dummyBit c.win = y
  generalize stringNumber c.win = z
  revert x y z
  decide

/-- A UPD answers SYNC_LOSS exactly when it reports a failed check. -/
theorem updChannel_ok_status {p : Config.Params} {b : Bit} {c c' : Channel} {r : Response}
    (h : updChannel p b c = .ok (c', r)) : r.status = .syncLoss ↔ r.lossFlags ≠ 0 := by
  obtain ⟨_, _, rfl⟩ | ⟨_, _, rfl⟩ | ⟨_, _, _, rfl⟩ | ⟨_, heq⟩ := updChannel_ok_cases h
  · decide
  · decide
  · decide
  · rw [show r = (completeString p (c.filled b)).2 from congrArg Prod.snd heq]
    exact completeString_status p (c.filled b)

/-- A command answers SYNC_LOSS exactly when it reports a failed check: only a UPD that completes a string reports any. -/
theorem commandEffect_status (i : Instr) (c : Channel) :
    (commandEffect i c).2.status = .syncLoss ↔ (commandEffect i c).2.lossFlags ≠ 0 := by
  cases ho : outcomeOn i c with
  | error v =>
    rw [commandEffect_of_error ho]
    simp [violationResponse]
  | ok cr =>
    rw [commandEffect_of_ok ho]
    cases i with
    | upd b => exact updChannel_ok_status ho
    | nop | init | rds =>
      cases ho
      simp
    | ext k n =>
      obtain ⟨_, he⟩ | ⟨_, _, _, he⟩ | ⟨_, _, he⟩ := extField_cases c k n <;> cases he.symm.trans ho
      simp

end Sys2Proof.Machine
end

section
/-! PROOFS. A run of UPD commands while collecting (spec/30_encoding.md R60, R61): what the two halves of a pair, the first pairs
of a string and all its 192 raw bits do to the addressed registers. -/

namespace Sys2Proof.Machine

/-! ### The effect of one UPD in COLLECT -/

theorem commandEffect_first {b : Bit} {c : Channel} (hs : c.st = 2) (hmc : c.mc = 0) :
    commandEffect (.upd b) c = ({ c with mc := 1 }, {}) :=
  commandEffect_of_ok ((updChannel_collect hs).trans (collectBit_first hmc))

theorem commandEffect_second {b : Bit} {c : Channel} (hs : c.st = 2) (hmc : c.mc = 1) (hh : c.head.toNat < 95) :
    commandEffect (.upd b) c =
      ({ c with mc := 0, win := memWrite c.win c.head.toNat (b ^^^ c.phase), head := c.head + 1 }, {}) := by
  apply commandEffect_of_ok
  rw [outcomeOn, updChannel_collect hs, collectBit_second hmc, writeDataBit, if_neg (Nat.lt_asymm hh), if_pos hh]

theorem commandEffect_last {b : Bit} {c : Channel} (hs : c.st = 2) (hmc : c.mc = 1) (hh : c.head = 95) :
    commandEffect (.upd b) c = completeString Config.params (c.filled b) := by
  apply commandEffect_of_ok
  rw [outcomeOn, updChannel_collect hs, collectBit_second hmc, writeDataBit, hh]
  rfl

/-- A write at an address of the window sets or clears that one bit (R37). -/
theorem wroteBit_memWrite (w : Window) {addr : Nat} (h : addr ≤ 95) (d : Bit) : wroteBit w (memWrite w addr d) addr d :=
  fun a ha => memWriteChangesOneBit.1 w addr a d h (by omega)

/-- Settles O36: the last UPD of a string answers the flags of its string check, and only such a UPD answers SYNC_LOSS. -/
theorem lossFlagsReportEveryFailedCheck : Obligations.LossFlagsReportEveryFailedCheck := by
  unfold Obligations.LossFlagsReportEveryFailedCheck
  refine ⟨fun s b hs hmc hh => ?_, fun i s => ⟨_, _, exec_eq_commandEffect i s, commandEffect_status i s.chan⟩⟩
  refine ⟨(s.chan.filled b).win, _, _, wroteBit_memWrite _ le_rfl _, exec_eq_commandEffect _ s, rfl, ?_⟩
  rw [commandEffect_last hs hmc hh, completeString_lossFlags]
  exact stringCheck_flags_getLsbD Config.params (s.chan.filled b)

/-! ### Runs -/

/-- The addressed registers after a run of commands. -/
def chanAfter (is : List Instr) (c : Channel) : Channel :=
  is.foldl (fun c i => (commandEffect i c).1) c

@[simp] theorem chanAfter_nil (c : Channel) : chanAfter [] c = c := rfl

@[simp] theorem chanAfter_cons (i : Instr) (is : List Instr) (c : Channel) :
    chanAfter (i :: is) c = chanAfter is (commandEffect i c).1 := rfl

theorem chanAfter_append (is js : List Instr) (c : Channel) :
    chanAfter (is ++ js) c = chanAfter js (chanAfter is c) :=
  List.foldl_append

/-- A run goes on where its first command leaves the state. -/
theorem runCommands_cons {i : Instr} {s t : State} (h : exec i s = .next t) (is : List Instr) :
    runCommands (i :: is) s = runCommands is t := by
  rw [runCommands, h]

/-- Every run ends in a state, with the registers its commands leave one after another. -/
theorem runCommands_next (is : List Instr) (s : State) :
    ∃ t, runCommands is s = .next t ∧ t.chan = chanAfter is s.chan := by
  induction is generalizing s with
  | nil => exact ⟨s, rfl, rfl⟩
  | cons i is ih =>
    rw [runCommands_cons (exec_eq_commandEffect i s), chanAfter_cons]
    exact ih _

theorem feed_next (l : List Bit) (s : State) : ∃ t, feed l s = .next t ∧ t.chan = chanAfter (upds l) s.chan :=
  runCommands_next (upds l) s

/-- Settles O37: a first half only sets MC, so the run goes on from one state whatever it was. -/
theorem firstHalfNeverEntersTheResult : Obligations.FirstHalfNeverEntersTheResult := by
  unfold Obligations.FirstHalfNeverEntersTheResult
  intro s h h' b hs hmc
  have hfirst (x : Bit) : feed [x, b] s = runCommands [.upd b]
      { s with chan := { s.chan with mc := 1 }, responses := (s.before.length, {}) :: s.responses } := by
    apply runCommands_cons
    rw [exec_eq_commandEffect, commandEffect_first hs hmc]
  rw [hfirst, hfirst]

/-! ### The pairs of a string -/

/-- A pair of raw bits below slot 95 writes its data bit and moves the cursor on (R92, R104, R105). -/
theorem chanAfter_pair {c : Channel} (hs : c.st = 2) (hmc : c.mc = 0) (hh : c.head.toNat < 95) (h b : Bit) :
    chanAfter (upds [h, b]) c = { c with win := memWrite c.win c.head.toNat (b ^^^ c.phase), head := c.head + 1 } := by
  change (commandEffect (.upd b) (commandEffect (.upd h) c).1).1 = _
  rw [commandEffect_first hs hmc, commandEffect_second (c := { c with mc := 1 }) hs rfl hh, ← hmc]

/-- The pair at slot 95 completes the string (R106). -/
theorem chanAfter_last_pair {c : Channel} (hs : c.st = 2) (hmc : c.mc = 0) (hh : c.head = 95) (h b : Bit) :
    chanAfter (upds [h, b]) c = (completeString Config.params (c.filled b)).1 := by
  change (commandEffect (.upd b) (commandEffect (.upd h) c).1).1 = _
  rw [commandEffect_first hs hmc, commandEffect_last (c := { c with mc := 1 }) hs rfl hh]
  rfl

/-- The first `k + 1` pairs of a list of raw bits are its first `k` and one more. -/
theorem upds_take_pair {l : List Bit} {k : Nat} (h : 2 * k + 1 < l.length) :
    upds (l.take (2 * (k + 1))) = upds (l.take (2 * k)) ++ upds [l[2 * k], l[2 * k + 1]] := by
  rw [upds, upds, upds, ← List.map_append, show 2 * (k + 1) = 2 * k + 1 + 1 by omega, List.take_succ_eq_append_getElem h,
    List.take_succ_eq_append_getElem (by omega), List.append_assoc]
  rfl

/-- A window whose slots below `k` hold the data bits of the pairs of `l`, each the second half XOR `phase` (R61, R92), and whose
other slots are those of `w`. -/
def FilledBelow (w : Window) (phase : Bit) (l : List Bit) (k : Nat) (w' : Window) : Prop :=
  ∀ a < 96, memBit w' a = if a < k then l.getD (2 * a + 1) 0 ^^^ phase else memBit w a

theorem filledBelow_zero (w : Window) (phase : Bit) (l : List Bit) : FilledBelow w phase l 0 w :=
  fun a _ => (if_neg (Nat.not_lt_zero a)).symm

/-- Writing the next pair's data bit fills the next slot. -/
theorem FilledBelow.memWrite {w w' : Window} {phase : Bit} {l : List Bit} {k : Nat} (h : FilledBelow w phase l k w')
    (hk : k ≤ 95) (hl : 2 * k + 1 < l.length) : FilledBelow w phase l (k + 1) (memWrite w' k (l[2 * k + 1] ^^^ phase)) := by
  intro a ha
  rw [wroteBit_memWrite w' hk _ a ha, h a ha]
  obtain hlt | rfl | hgt := Nat.lt_trichotomy a k
  · rw [if_neg hlt.ne, if_pos hlt, if_pos (by omega)]
  · rw [if_pos rfl, if_pos (by omega), List.getD_eq_getElem _ _ hl]
  · rw [if_neg hgt.ne', if_neg (by omega), if_neg (by omega)]

/-- From the start of a string, the first `k` pairs fill the slots below `k` and move the cursor there (R61, R104, R105). -/
theorem chanAfter_pairs {c : Channel} (hs : c.st = 2) (hmc : c.mc = 0) (hh : c.head = 0) {l : List Bit} {k : Nat}
    (hk : k ≤ 95) (hl : 2 * k ≤ l.length) :
    ∃ w, chanAfter (upds (l.take (2 * k))) c = { c with win := w, head := BitVec.ofNat 7 k } ∧
      FilledBelow c.win c.phase l k w := by
  induction k with
  | zero =>
    refine ⟨c.win, ?_, filledBelow_zero _ _ _⟩
    change c = { c with head := 0 }
    rw [← hh]
  | succ k ih =>
    obtain ⟨w, hw, hfilled⟩ := ih (by omega) (by omega)
    have hnat : (BitVec.ofNat 7 k).toNat = k := by
      rw [BitVec.toNat_ofNat]
      omega
    have hlt : (BitVec.ofNat 7 k).toNat < 95 := by omega
    have hnext : BitVec.ofNat 7 (k + 1) = BitVec.ofNat 7 k + 1 := BitVec.ofNat_add k 1
    refine ⟨_, ?_, hfilled.memWrite (by omega) (by omega)⟩
    rw [upds_take_pair (by omega), chanAfter_append, hw, hnext,
      chanAfter_pair (c := { c with win := w, head := BitVec.ofNat 7 k }) hs hmc hlt]
    simp only [hnat]

/-- From the start of a string, its 192 raw bits fill all 96 slots, and the string check decides on that window (R61, R106). -/
theorem chanAfter_string {c : Channel} (hs : c.st = 2) (hmc : c.mc = 0) (hh : c.head = 0) {l : List Bit}
    (hl : l.length = 192) :
    ∃ w, chanAfter (upds l) c = (completeString Config.params { c with win := w }).1 ∧ FilledBelow c.win c.phase l 96 w := by
  obtain ⟨w, hw, hfilled⟩ := chanAfter_pairs hs hmc hh (l := l) (k := 95) le_rfl (by omega)
  refine ⟨_, ?_, hfilled.memWrite le_rfl (by omega)⟩
  have hall : l = l.take (2 * (95 + 1)) := (List.take_of_length_le (by omega)).symm
  have hchan : ∀ x : Window, ({ c with win := x, head := 0, mc := 0 } : Channel) = { c with win := x } := by
    intro x
    rw [← hmc, ← hh]
  rw [congrArg upds hall, upds_take_pair (by omega), chanAfter_append, hw,
    chanAfter_last_pair (c := { c with win := w, head := BitVec.ofNat 7 95 }) hs hmc rfl]
  exact congrArg (fun c => (completeString Config.params c).1) (hchan _)

/-- The registers a completed string leaves (R125, R126). -/
theorem completeString_st_win {c : Channel} (hs : c.st = 2) :
    if stringPasses c.win c.nextId then
      (completeString Config.params c).1.st = 2 ∧ (completeString Config.params c).1.win = c.win
    else (completeString Config.params c).1.st = 1 ∧ (completeString Config.params c).1.win = ⟨0, 0, 0⟩ := by
  obtain ⟨hok, he⟩ | ⟨hok, he⟩ := completeString_cases Config.params c <;> rw [he]
  · rw [if_pos ((stringCheck_ok c).mp hok)]
    exact ⟨hs, rfl⟩
  · rw [if_neg (mt (stringCheck_ok c).mpr (Bool.eq_false_iff.mp hok))]
    exact ⟨rfl, rfl⟩

/-- Settles O40: the 192 raw bits fill the window, and the string completes on it. -/
theorem stringBitsFillTheWindowInOrder : Obligations.StringBitsFillTheWindowInOrder := by
  unfold Obligations.StringBitsFillTheWindowInOrder
  intro s l hs hmc hh hl
  obtain ⟨t, ht, hchan⟩ := feed_next l s
  obtain ⟨w, hw, hfilled⟩ := chanAfter_string hs hmc hh hl
  refine ⟨t, w, ht, fun a ha => (hfilled a ha).trans (if_pos ha), ?_⟩
  rw [hchan, hw]
  exact completeString_st_win (c := { s.chan with win := w }) hs

/-! ### UPDW -/

/-- Two windows with the same 96 bits are one. -/
theorem Window.eq_of_memBit_eq {w w' : Window} (h : ∀ a < 96, memBit w a = memBit w' a) : w = w' := by
  have hword : ∀ slot < 3, w.word slot = w'.word slot := by
    intro slot hslot
    apply BitVec.eq_of_getLsbD_eq
    intro q hq
    have ha := h (32 * slot + q) (by omega)
    rw [memBit_eq_ofBool, memBit_eq_ofBool] at ha
    rw [Window.word_getLsbD w hq (by omega) rfl, Window.word_getLsbD w' hq (by omega) rfl]
    exact BitVec.ofBool_eq_iff_eq.mp ha
  cases w
  cases w'
  rw [Window.mk.injEq]
  exact ⟨hword 0 (by decide), hword 1 (by decide), hword 2 (by decide)⟩

/-- The second half of pair `a` is data bit `a` XOR the phase (R60, R63). -/
theorem lineCoded_getD (p : Bit) (ds : List Bit) {a : Nat} (h : a < ds.length) :
    (lineCoded p ds).getD (2 * a + 1) 0 = ds[a] ^^^ p := by
  induction ds generalizing a with
  | nil => exact absurd h (Nat.not_lt_zero a)
  | cons d ds ih =>
    cases a with
    | zero => rfl
    | succ a => exact ih (Nat.lt_of_succ_lt_succ h)

theorem lineCoded_length (p : Bit) (ds : List Bit) : (lineCoded p ds).length = 2 * ds.length := by
  induction ds with
  | nil => rfl
  | cons d ds ih =>
    simp only [lineCoded, List.length_cons, ih]
    omega

theorem windowDataBits_length (w0 w1 w2 : Word) : (windowDataBits w0 w1 w2).length = 96 := by
  simp [windowDataBits]

/-- Data bit `a` of UPDW is bit `a` of the window of its three words (R63). -/
theorem windowDataBits_getElem (w0 w1 w2 : Word) {a : Nat} (h : a < (windowDataBits w0 w1 w2).length) :
    (windowDataBits w0 w1 w2)[a] = memBit ⟨w0, w1, w2⟩ a := by
  have ha : a < 96 := windowDataBits_length w0 w1 w2 ▸ h
  rw [memBit_eq_ofBool, Window.w96_getLsbD _ ha, Window.word_eq_ite]
  simp [windowDataBits]

/-- Settles O42: UPDW's raw bits fill the window with the data bits, the phase cancelling, which are those of its words. -/
theorem updwLoadsTheWindow : Obligations.UpdwLoadsTheWindow := by
  unfold Obligations.UpdwLoadsTheWindow
  intro s w0 w1 w2 hs hmc hh
  have hlen := windowDataBits_length w0 w1 w2
  obtain ⟨t, w, ht, hbits, hcheck⟩ := stringBitsFillTheWindowInOrder s
    (lineCoded s.chan.phase (windowDataBits w0 w1 w2)) hs hmc hh (by rw [lineCoded_length, hlen])
  obtain rfl : w = ⟨w0, w1, w2⟩ := Window.eq_of_memBit_eq fun a ha => by
    rw [hbits a ha, lineCoded_getD _ _ (by omega), windowDataBits_getElem, BitVec.xor_assoc, BitVec.xor_self, BitVec.xor_zero]
  exact ⟨t, ht, hcheck⟩

end Sys2Proof.Machine
end

section
/-! PROOFS. A step on a command word (spec/30_encoding.md R50, R53). -/

namespace Sys2Proof.Machine

/-- Settles O7, by the step on a command word that decodes. -/
theorem stepRunsTheDecodedCommand : Obligations.StepRunsTheDecodedCommand := by
  unfold Obligations.StepRunsTheDecodedCommand
  intro s w i rest pre post c hc hi hd
  exact step_of_command hc hi hd

/-- Settles O8, by the step on a command word that does not decode. -/
theorem stepAnswersIllegalWords : Obligations.StepAnswersIllegalWords := by
  unfold Obligations.StepAnswersIllegalWords
  intro s w e rest pre post c hc hi hd
  exact step_of_illegal hc hi hd

end Sys2Proof.Machine
end

section
/-! PROOFS. The command EXT (spec/40_extract.md R80 to R88): the field it reads, the violation it answers instead, and the
registers it leaves. -/

namespace Sys2Proof.Machine

/-! ### The field -/

/-- The 96-bit view as a number (spec/20_memory.md R32). -/
theorem Window.w96_toNat (w : Window) : w.w96.toNat = w.w2.toNat * 2 ^ 64 + w.w1.toNat * 2 ^ 32 + w.w0.toNat := by
  rw [Window.w96, BitVec.toNat_append, ← Nat.shiftLeft_add_eq_or_of_lt w.w0.isLt, BitVec.toNat_append,
    ← Nat.shiftLeft_add_eq_or_of_lt w.w1.isLt, Nat.shiftLeft_eq, Nat.shiftLeft_eq]
  ring

/-- Settles O19: a legal Extract is a read of the 96-bit view, which is a number of the three words. -/
theorem extractTwoCasesAgreeWithTheClosedForm : Obligations.ExtractTwoCasesAgreeWithTheClosedForm := by
  unfold Obligations.ExtractTwoCasesAgreeWithTheClosedForm
  intro w i n _ hn hi hin
  rw [← w.w96_toNat]
  exact ⟨extract_eq_memRead w hn hi hin, extract_toNat w hn hi hin⟩

/-- Settles O20, by a legal Extract's bits. -/
theorem extractIsRightAligned : Obligations.ExtractIsRightAligned := by
  unfold Obligations.ExtractIsRightAligned
  intro w i n j _ hn hi hin _
  rw [extract_getLsbD w hn hi hin]
  by_cases hj : j < n
  · rw [if_pos hj, decide_eq_true hj, Bool.true_and, Window.w96]
  · rw [if_neg hj, decide_eq_false hj, Bool.false_and]

/-- Bit `j` of a value put at offset `p` (R88). -/
theorem shifted_getLsbD (v : Nat) {p j : Nat} (hp : p + j < 96) :
    (BitVec.ofNat 96 v <<< p).getLsbD (p + j) = v.testBit j := by
  rw [BitVec.getLsbD_shiftLeft, Nat.add_sub_cancel_left, BitVec.getLsbD_ofNat]
  simp [hp, show j < 96 by omega]

/-- Bit `j` of an `n`-bit field at offset `p`, after the field's bits were cleared and `v` was put in their place (R88). -/
theorem replacedField_getLsbD (x : BitVec 96) (v : Nat) {p n j : Nat} (hj : j < n) (hp : p + j < 96) :
    ((x &&& ~~~(BitVec.ofNat 96 (2 ^ n - 1) <<< p)) ||| (BitVec.ofNat 96 v <<< p)).getLsbD (p + j) = v.testBit j := by
  rw [BitVec.getLsbD_or, BitVec.getLsbD_and, BitVec.getLsbD_not, shifted_getLsbD _ hp, shifted_getLsbD _ hp,
    Nat.testBit_two_pow_sub_one, decide_eq_true hj]
  simp

/-- Settles O21: the field's bits are those of the value, and the value has no others. -/
theorem extractRoundTrip : Obligations.ExtractRoundTrip := by
  unfold Obligations.ExtractRoundTrip
  intro w x i n v _ hn hi hin hv hw
  have hfield : ∀ j, (extract w i n).getLsbD j = v.testBit j := by
    intro j
    rw [extract_getLsbD w hn hi hin]
    by_cases hj : j < n
    · rw [decide_eq_true hj, Bool.true_and, Window.w96, hw, replacedField_getLsbD x v hj (by omega)]
    · have hhigh : v < 2 ^ j := Nat.lt_of_lt_of_le hv (Nat.pow_le_pow_right Nat.two_pos (Nat.le_of_not_lt hj))
      rw [decide_eq_false hj, Bool.false_and, Nat.testBit_lt_two_pow hhigh]
  exact Nat.eq_of_testBit_eq hfield

/-! ### What EXT answers -/

theorem commandEffect_ext_invalid {c : Channel} (h : c.st = 0 ∨ c.st = 3) (i n : Nat) :
    commandEffect (.ext i n) c = (c, { violation := some .notInitialised }) :=
  commandEffect_of_error (extField_invalid h i n)

theorem commandEffect_ext_violation {c : Channel} {i n : Nat} {v : Violation} (h : ¬(c.st = 0 ∨ c.st = 3))
    (hv : requestViolation i n = some v) : commandEffect (.ext i n) c = (c, { violation := some v }) :=
  commandEffect_of_error (extField_violation h hv)

theorem commandEffect_ext_legal {c : Channel} {i n : Nat} (h : ¬(c.st = 0 ∨ c.st = 3))
    (hv : requestViolation i n = none) : commandEffect (.ext i n) c = (c, { data := extract c.win i n }) :=
  commandEffect_of_ok (extField_legal h hv)

/-- NOP, EXT and RDS leave the addressed registers (R85, R136, R137). -/
theorem commandEffect_fst_of_read {i : Instr} (h : i = .nop ∨ (∃ k n, i = .ext k n) ∨ ∃ sel, i = .rds sel)
    (c : Channel) : (commandEffect i c).1 = c := by
  obtain rfl | ⟨k, n, rfl⟩ | ⟨sel, rfl⟩ := h
  · rfl
  · cases ho : outcomeOn (.ext k n) c with
    | ok cr =>
      rw [commandEffect_of_ok ho]
      exact extField_ok_fst ho
    | error v => rw [commandEffect_of_error ho]
  · rfl

/-- All that EXT does to the state is to add its answer to the record (R80, R85). -/
theorem exec_ext (s : State) (i n : Nat) : exec (.ext i n) s = .next
    { s with responses := (s.before.length, (commandEffect (.ext i n) s.chan).2) :: s.responses } := by
  rw [exec_eq_commandEffect, commandEffect_fst_of_read (.inr (.inl ⟨i, n, rfl⟩))]

/-- Settles O18: the answer follows the tests of R80 in their order, and past the last of them the request is legal. -/
theorem extAnswersTheFieldOrTheFirstViolation : Obligations.ExtAnswersTheFieldOrTheFirstViolation := by
  unfold Obligations.ExtAnswersTheFieldOrTheFirstViolation
  refine ⟨fun i n hi hn => ?_, fun s i n => ?_⟩
  · exact decodeOfEncodeIsTheCommand (.ext i n) ((wellFormed_ext i n).mpr ⟨by omega, by omega⟩)
  · rw [exec_ext]
    by_cases hst : s.chan.st = 0 ∨ s.chan.st = 3
    · rw [if_pos hst, commandEffect_ext_invalid hst]
    · rw [if_neg hst]
      have hv := requestViolation_eq i n
      split_ifs at hv ⊢
      · rw [commandEffect_ext_violation hst hv]
      · rw [commandEffect_ext_violation hst hv]
      · rw [commandEffect_ext_violation hst hv]
      · obtain ⟨_, hn, hi, hin⟩ := (requestViolation_eq_none i n).mp hv
        rw [commandEffect_ext_legal hst hv, ← Window.w96_toNat, ← extract_toNat _ hn hi hin, BitVec.ofNat_toNat,
          BitVec.setWidth_eq]

/-- Settles O23: once initialised EXT answers the violation of its request, and only a legal request has none. -/
theorem extSucceedsExactlyOnLegalRequests : Obligations.ExtSucceedsExactlyOnLegalRequests := by
  unfold Obligations.ExtSucceedsExactlyOnLegalRequests
  intro s i n hst
  refine ⟨_, exec_ext s i n, ?_⟩
  have hready : ¬(s.chan.st = 0 ∨ s.chan.st = 3) := by
    obtain h | h := hst <;> rw [h] <;> decide
  rw [← requestViolation_eq_none]
  cases hv : requestViolation i n with
  | none => simp [commandEffect_ext_legal hready hv]
  | some v => simp [commandEffect_ext_violation hready hv]

/-- Settles O24: the three commands leave the addressed registers, and a command touches no others. -/
theorem nopExtAndRdsWriteNothing : Obligations.NopExtAndRdsWriteNothing := by
  unfold Obligations.NopExtAndRdsWriteNothing
  intro i s t hi h
  rw [exec_eq_commandEffect, commandEffect_fst_of_read hi] at h
  cases h
  exact ⟨rfl, rfl, rfl, rfl, fun _ _ => rfl⟩

end Sys2Proof.Machine
end

section
/-! PROOFS. The line decoder (spec/41_line_decoder.md R92 to R95): what each half of a pair writes, what a UPD in COLLECT keeps, and
the count of the raw bits of a string up to the one that completes it. -/

namespace Sys2Proof.Machine

/-! ### One half of a pair -/

/-- Settles O31, by the effect of a first half. -/
theorem firstHalfOnlySetsMc : Obligations.FirstHalfOnlySetsMc := by
  unfold Obligations.FirstHalfOnlySetsMc
  intro s b hs hmc
  rw [exec_eq_commandEffect, commandEffect_first hs hmc]

/-- Settles O32, by the effect of a second half below slot 95: its write changes one bit of the window. -/
theorem secondHalfWritesTheDataBitAtHead : Obligations.SecondHalfWritesTheDataBitAtHead := by
  unfold Obligations.SecondHalfWritesTheDataBitAtHead
  intro s b hs hmc hh
  have hnext : BitVec.ofNat 7 (s.chan.head.toNat + 1) = s.chan.head + 1 := by
    rw [BitVec.ofNat_add, BitVec.ofNat_toNat, BitVec.setWidth_eq]
    rfl
  refine ⟨_, wroteBit_memWrite s.chan.win hh.le _, ?_⟩
  rw [exec_eq_commandEffect, commandEffect_second hs hmc hh, hnext]

/-! ### What a UPD in COLLECT keeps -/

/-- A completed string after which STATE is still COLLECT passed its checks, and only NEXT_ID was written (R125). -/
theorem completeString_of_collect {p : Config.Params} {c : Channel} (h : (completeString p c).1.st = 2) :
    (completeString p c).1 = { c with nextId := successor (stringCheck p c).sn } := by
  obtain ⟨_, he⟩ | ⟨_, he⟩ := completeString_cases p c <;> rw [he] at h ⊢
  exact absurd h (show (1 : BitVec 2) ≠ 2 by decide)

/-- Settles O38: a first half and a cursor beyond the window leave the window, every other second half writes the bit at HEAD. -/
theorem updFrameWhileCollecting : Obligations.UpdFrameWhileCollecting := by
  unfold Obligations.UpdFrameWhileCollecting
  intro s t b hs h ht
  rw [exec_eq_commandEffect] at h
  cases h
  have hframe {addr : Nat} (haddr : addr ≤ 95) (d : Bit) (a : Nat) (ha : a < 96) (hne : a ≠ addr) :
      memBit (memWrite s.chan.win addr d) a = memBit s.chan.win a :=
    (wroteBit_memWrite s.chan.win haddr d a ha).trans (if_neg hne)
  obtain ⟨hmc, _⟩ | ⟨hmc, hh, hc⟩ | ⟨hmc, hh, _⟩ | ⟨hmc, hh, _⟩ := collectBit_cases Config.params b s.chan
  · rw [commandEffect_first hs hmc]
    exact ⟨rfl, rfl, rfl, rfl, rfl, fun _ _ _ => rfl, fun _ => ⟨rfl, rfl, rfl⟩⟩
  · rw [commandEffect_of_error (i := .upd b) ((updChannel_collect hs).trans hc)]
    exact ⟨rfl, rfl, rfl, rfl, rfl, fun _ _ _ => rfl, fun _ => ⟨rfl, rfl, rfl⟩⟩
  · rw [commandEffect_second hs hmc hh]
    exact ⟨rfl, rfl, rfl, rfl, rfl, hframe hh.le _, fun hmc0 => absurd (hmc0.symm.trans hmc) (by decide)⟩
  · rw [commandEffect_last hs hmc hh] at ht ⊢
    rw [completeString_of_collect ht, hh]
    exact ⟨rfl, rfl, rfl, rfl, rfl, hframe le_rfl _, fun hmc0 => absurd (hmc0.symm.trans hmc) (by decide)⟩

/-! ### Longer runs -/

/-- A run of a list of commands is a run of its first part and then of the rest. -/
theorem runCommands_append {is : List Instr} {s t : State} (h : runCommands is s = .next t) (js : List Instr) :
    runCommands (is ++ js) s = runCommands js t := by
  induction is generalizing s with
  | nil =>
    cases h
    rfl
  | cons i is ih =>
    rw [runCommands_cons (exec_eq_commandEffect i s)] at h
    rw [List.cons_append, runCommands_cons (exec_eq_commandEffect i s), ih h]

/-- One more raw bit is fed where a run of raw bits ends. -/
theorem feed_concat {l : List Bit} {s t : State} (h : feed l s = .next t) (b : Bit) :
    feed (l ++ [b]) s = exec (.upd b) t := by
  rw [feed, upds, List.map_append, exec_eq_commandEffect]
  exact (runCommands_append h _).trans (runCommands_cons (exec_eq_commandEffect _ t) [])

/-! ### The raw bits of a string -/

/-- How many raw bits of the current string have been received: two for each slot below HEAD, and a first half that waits for its
second (R92, R105). -/
def Channel.rawBits (c : Channel) : Nat := 2 * c.head.toNat + c.mc.toNat

/-- A UPD before the last raw bit of a string answers NONE and counts one raw bit more. -/
theorem commandEffect_upd_of_rawBits_lt {c : Channel} (hs : c.st = 2) (hlt : c.rawBits < 191) (b : Bit) :
    ∃ c', commandEffect (.upd b) c = (c', {}) ∧ c'.st = 2 ∧ c'.rawBits = c.rawBits + 1 := by
  unfold Channel.rawBits at hlt ⊢
  obtain hmc | hmc := bit_cases c.mc
  · exact ⟨_, commandEffect_first hs hmc, hs, by rw [hmc]; rfl⟩
  · have hone : c.mc.toNat = 1 := congrArg BitVec.toNat hmc
    have hh : c.head.toNat < 95 := by omega
    have hnext : (c.head + 1).toNat = c.head.toNat + 1 :=
      BitVec.toNat_add_of_lt (show c.head.toNat + 1 < 2 ^ 7 by omega)
    refine ⟨_, commandEffect_second hs hmc hh, hs, ?_⟩
    rw [hnext, hone]
    rfl

/-- The last raw bit of a string is the second half of the pair at slot 95. -/
theorem Channel.mc_head_of_rawBits {c : Channel} (h : c.rawBits = 191) : c.mc = 1 ∧ c.head = 95 := by
  unfold Channel.rawBits at h
  have hmc := c.mc.isLt
  exact ⟨BitVec.eq_of_toNat_eq (show c.mc.toNat = 1 by omega), BitVec.eq_of_toNat_eq (show c.head.toNat = 95 by omega)⟩

/-- A completed string answers a status and leaves the cursor and MC (R125), or clears them (R126). -/
theorem completeString_reports (p : Config.Params) {c : Channel} (hh : c.head = 0) (hmc : c.mc = 0) :
    (completeString p c).2.status ≠ .none ∧ (completeString p c).1.head = 0 ∧ (completeString p c).1.mc = 0 := by
  obtain ⟨_, he⟩ | ⟨_, he⟩ := completeString_cases p c <;> rw [he]
  · exact ⟨nofun, hh, hmc⟩
  · exact ⟨nofun, rfl, rfl⟩

/-- Raw bits that stay short of a string's last are answered NONE each, and counted. -/
theorem feed_before_completion {s : State} {l : List Bit} (hs : s.chan.st = 2) (hl : s.chan.rawBits + l.length ≤ 191) :
    ∃ c, feed l s = .next
        { s with chan := c, responses := List.replicate l.length (s.before.length, {}) ++ s.responses } ∧
      c.st = 2 ∧ c.rawBits = s.chan.rawBits + l.length := by
  induction l generalizing s with
  | nil => exact ⟨s.chan, rfl, hs, rfl⟩
  | cons b l ih =>
    rw [List.length_cons] at hl ⊢
    obtain ⟨c₁, he, hs₁, hn₁⟩ := commandEffect_upd_of_rawBits_lt hs (by omega) b
    obtain ⟨c, hfeed, hsc, hn⟩ := ih
      (s := { s with chan := c₁, responses := (s.before.length, {}) :: s.responses }) hs₁ (by rw [hn₁]; omega)
    refine ⟨c, ?_, hsc, by rw [hn, hn₁]; omega⟩
    have hfirst : exec (.upd b) s = .next { s with chan := c₁, responses := (s.before.length, {}) :: s.responses } := by
      rw [exec_eq_commandEffect, he]
    rw [List.replicate_succ', List.append_assoc]
    exact (runCommands_cons hfirst _).trans hfeed

/-- Settles O39: 191 raw bits are answered NONE and count up to the second half at slot 95, which completes the string. -/
theorem stringCompletesAtIts192ndBit : Obligations.StringCompletesAtIts192ndBit := by
  unfold Obligations.StringCompletesAtIts192ndBit
  intro s l hs hmc hh hl
  obtain ⟨l, b, rfl⟩ : ∃ m b, l = m ++ [b] :=
    (List.eq_nil_or_concat' l).resolve_left (List.ne_nil_of_length_pos (by omega))
  have hlen : l.length = 191 := by simpa using hl
  have hstart : s.chan.rawBits = 0 := by rw [Channel.rawBits, hh, hmc]; rfl
  obtain ⟨c, hfeed, hsc, hn⟩ := feed_before_completion hs (l := l) (by omega)
  obtain ⟨hcmc, hch⟩ := Channel.mc_head_of_rawBits (c := c) (by omega)
  rw [feed_concat hfeed, exec_eq_commandEffect, commandEffect_last hsc hcmc hch, hlen]
  obtain ⟨hstatus, hhead, hmc'⟩ := completeString_reports Config.params (c.filled_head b) (c.filled_mc b)
  exact ⟨_, _, _, rfl, rfl, List.length_replicate, fun x hx => by rw [List.eq_of_mem_replicate hx], hstatus, hhead, hmc'⟩

end Sys2Proof.Machine
end

section
/-! PROOFS. The SyncEngine (spec/42_sync_engine.md R100 to R112): what one UPD does before INIT, while searching, at the lock and
at a cursor beyond the window, the accumulator and the registers over a run of raw bits while searching, and the transition
table. -/

namespace Sys2Proof.Machine

/-! ### One UPD before INIT, in SEARCH, and with HEAD beyond the window -/

theorem commandEffect_upd_invalid {c : Channel} (h : c.st = 0 ∨ c.st = 3) (b : Bit) :
    commandEffect (.upd b) c = (c, { violation := some .notInitialised }) :=
  commandEffect_of_error (updChannel_invalid h)

/-- A UPD whose new TM is the pattern locks (R102, R103). -/
theorem commandEffect_lock {b : Bit} {c : Channel} (hs : c.st = 1) (h : shiftedTm c.tm b = 0x3E375096) :
    commandEffect (.upd b) c = ({ c with tm := 0x3E375096 }.lock Config.params, {}) := by
  have hm : isTimeMark (shiftedTm c.tm b) = true := (isTimeMark_shiftedTm c.tm b).mpr h
  apply commandEffect_of_ok
  rw [outcomeOn, updChannel_search hs, searchBit, if_pos hm, h]

/-- A UPD whose new TM is not the pattern writes TM alone (R101). -/
theorem commandEffect_noLock {b : Bit} {c : Channel} (hs : c.st = 1) (h : shiftedTm c.tm b ≠ 0x3E375096) :
    commandEffect (.upd b) c = ({ c with tm := shiftedTm c.tm b }, {}) := by
  have hm : ¬isTimeMark (shiftedTm c.tm b) = true := mt (isTimeMark_shiftedTm c.tm b).mp h
  apply commandEffect_of_ok
  rw [outcomeOn, updChannel_search hs, searchBit, if_neg hm]

/-- A second half with the cursor beyond the window (R111). -/
theorem commandEffect_cursorRange {b : Bit} {c : Channel} (hs : c.st = 2) (hmc : c.mc = 1) (hh : 95 < c.head.toNat) :
    commandEffect (.upd b) c = (c, { violation := some .cursorRange }) := by
  apply commandEffect_of_error
  rw [outcomeOn, updChannel_collect hs, collectBit_second hmc, writeDataBit, if_pos hh]

/-- Settles O25, by the effect of a UPD before INIT. -/
theorem updBeforeInitRaisesNotInitialised : Obligations.UpdBeforeInitRaisesNotInitialised := by
  unfold Obligations.UpdBeforeInitRaisesNotInitialised
  intro s b hs
  rw [exec_eq_commandEffect, commandEffect_upd_invalid hs]

/-- Settles O34, by the effect of a second half with the cursor beyond the window. -/
theorem cursorOutOfRangeUndoesTheCommand : Obligations.CursorOutOfRangeUndoesTheCommand := by
  unfold Obligations.CursorOutOfRangeUndoesTheCommand
  intro s b hs hmc hh
  rw [exec_eq_commandEffect, commandEffect_cursorRange hs hmc hh]

/-- Settles O26: TM takes the shifted value with the lock and without it, and without it nothing else is written. -/
theorem updInSearchShiftsTheRawBit : Obligations.UpdInSearchShiftsTheRawBit := by
  unfold Obligations.UpdInSearchShiftsTheRawBit
  refine ⟨fun s b hs => ⟨_, exec_eq_commandEffect _ s, ?_⟩, fun s b hs h => ?_⟩
  · change (commandEffect (.upd b) s.chan).1.tm = shiftedTm s.chan.tm b
    by_cases h : shiftedTm s.chan.tm b = 0x3E375096
    · rw [commandEffect_lock hs h, Channel.lock_tm, h]
    · rw [commandEffect_noLock hs h]
  · rw [exec_eq_commandEffect, commandEffect_noLock hs h]
    rfl

/-- Settles O27, by the two effects of a UPD in SEARCH. -/
theorem updLocksOnTheTimeMark : Obligations.UpdLocksOnTheTimeMark := by
  unfold Obligations.UpdLocksOnTheTimeMark
  refine ⟨fun s b hs h => ⟨_, exec_eq_commandEffect _ s, ?_⟩, fun s hs => ?_, fun s b hs h => ?_⟩
  · rw [commandEffect_noLock hs h]
    exact hs
  · have hst : s.chan.register 0 = 2 := by
      change s.chan.st.setWidth 32 = 2
      rw [hs]
      rfl
    rw [← hst]
    rfl
  · rw [exec_eq_commandEffect, commandEffect_lock hs h]
    rfl

/-! ### The accumulator over a run of raw bits -/

/-- The shift as a number (R101). -/
theorem shiftedTm_toNat (tm : Word) (b : Bit) : (shiftedTm tm b).toNat = (tm.toNat * 2 + b.toNat) % 2 ^ 30 := by
  have hmask : Config.tmMask.toNat = 2 ^ 30 - 1 := rfl
  rw [shiftedTm, BitVec.toNat_and, hmask, Nat.and_two_pow_sub_one_eq_mod, BitVec.toNat_or, BitVec.toNat_shiftLeft,
    BitVec.toNat_setWidth, ← Nat.or_mod_two_pow, Nat.mod_mod_of_dvd _ (pow_dvd_pow 2 (by decide)),
    ← Nat.shiftLeft_add_eq_or_of_lt b.isLt, Nat.shiftLeft_eq]

/-- TM after a run of raw bits, as a number: the value TM had and the bits after it, as far as 30 bits hold them. -/
theorem foldl_shiftedTm_toNat (tm : Word) (l : List Bit) :
    (l.foldl shiftedTm tm).toNat % 2 ^ 30 = (tm.toNat * 2 ^ l.length + bitsValue l) % 2 ^ 30 := by
  induction l generalizing tm with
  | nil => simp [bitsValue]
  | cons b l ih =>
    have hvalue : (tm.toNat * 2 + b.toNat) * 2 ^ l.length + bitsValue l =
        tm.toNat * 2 ^ (b :: l).length + bitsValue (b :: l) := by
      rw [List.length_cons, bitsValue]
      ring
    rw [List.foldl_cons, ih, shiftedTm_toNat, Nat.add_mod, Nat.mod_mul_mod, ← Nat.add_mod, hvalue]

/-- When TM is the pattern after at least one raw bit (R102). -/
theorem foldl_shiftedTm_eq_pattern_iff (tm : Word) {l : List Bit} (hl : l ≠ []) :
    l.foldl shiftedTm tm = 0x3E375096 ↔ (tm.toNat * 2 ^ l.length + bitsValue l) % 2 ^ 30 = 0x3E375096 := by
  have hlt : (l.foldl shiftedTm tm).toNat < 2 ^ 30 := by
    rw [← List.dropLast_append_getLast hl, List.foldl_concat]
    exact shiftedTm_lt _ _
  rw [← foldl_shiftedTm_toNat, Nat.mod_eq_of_lt hlt]
  exact BitVec.toNat_inj.symm

/-! ### A run of raw bits in SEARCH -/

/-- Everything a run of raw bits can do in SEARCH: either none of them locks and only TM is written, or TM becomes the pattern
after the first `k + 1` of them, and the last of these locks. -/
theorem chanAfter_search_cases {c : Channel} (hs : c.st = 1) (l : List Bit) :
    chanAfter (upds l) c = { c with tm := l.foldl shiftedTm c.tm } ∨
    ∃ k < l.length, (l.take (k + 1)).foldl shiftedTm c.tm = 0x3E375096 ∧
      chanAfter (upds (l.take (k + 1))) c = { c with tm := 0x3E375096 }.lock Config.params := by
  induction l generalizing c with
  | nil => exact .inl rfl
  | cons b l ih =>
    by_cases h : shiftedTm c.tm b = 0x3E375096
    · exact .inr ⟨0, Nat.zero_lt_succ _, h, congrArg Prod.fst (commandEffect_lock hs h)⟩
    · have hcons (m : List Bit) :
          chanAfter (upds (b :: m)) c = chanAfter (upds m) { c with tm := shiftedTm c.tm b } := by
        change chanAfter (upds m) (commandEffect (.upd b) c).1 = _
        rw [commandEffect_noLock hs h]
      obtain hrun | ⟨k, hk, htm, hrun⟩ := ih (c := { c with tm := shiftedTm c.tm b }) hs
      · exact .inl ((hcons l).trans hrun)
      · exact .inr ⟨k + 1, Nat.succ_lt_succ hk, htm, (hcons _).trans hrun⟩

/-! ### The time mark -/

/-- No proper beginning of the time mark is also an end of it (R59, R102). -/
theorem timeMarkBits_no_border :
    ∀ k < 29, bitsValue (timeMarkBits.take (k + 1)) % 2 ^ (k + 1) ≠ 0x3E375096 % 2 ^ (k + 1) := by
  decide

/-- Fewer than thirty bits of the time mark leave another value than the pattern in TM, whatever it held. -/
theorem foldl_timeMarkBits_take_ne (tm : Word) {k : Nat} (hk : k < 29) :
    (timeMarkBits.take (k + 1)).foldl shiftedTm tm ≠ 0x3E375096 := by
  intro h
  have hlen : (timeMarkBits.take (k + 1)).length = k + 1 :=
    List.length_take_of_le (show k + 1 ≤ 30 by omega)
  rw [foldl_shiftedTm_eq_pattern_iff tm (List.ne_nil_of_length_eq_add_one hlen), hlen] at h
  have hlow := congrArg (· % 2 ^ (k + 1)) h
  simp only [Nat.mod_mod_of_dvd _ (pow_dvd_pow 2 (show k + 1 ≤ 30 by omega)), Nat.mul_add_mod_self_right] at hlow
  exact timeMarkBits_no_border k hk hlow

/-- The thirty bits of the time mark leave the pattern in TM, whatever it held. -/
theorem foldl_timeMarkBits (tm : Word) : timeMarkBits.foldl shiftedTm tm = 0x3E375096 := by
  have hvalue : bitsValue timeMarkBits = 0x3E375096 := by decide
  rw [foldl_shiftedTm_eq_pattern_iff tm (by decide), hvalue]
  exact Nat.mul_add_mod_self_right _ _ _

/-- In SEARCH, fewer than thirty bits of the time mark write TM alone. -/
theorem chanAfter_timeMarkBits_take {c : Channel} (hs : c.st = 1) {k : Nat} (hk : k < 30) :
    chanAfter (upds (timeMarkBits.take k)) c = { c with tm := (timeMarkBits.take k).foldl shiftedTm c.tm } := by
  obtain hrun | ⟨j, hj, htm, _⟩ := chanAfter_search_cases hs (timeMarkBits.take k)
  · exact hrun
  · rw [List.length_take] at hj
    rw [List.take_take, Nat.min_eq_left (by omega)] at htm
    exact absurd htm (foldl_timeMarkBits_take_ne c.tm (by omega))

/-- In SEARCH, the thirty bits of the time mark lock. -/
theorem chanAfter_timeMarkBits {c : Channel} (hs : c.st = 1) :
    chanAfter (upds timeMarkBits) c = { c with tm := 0x3E375096 }.lock Config.params := by
  have hsplit : timeMarkBits = timeMarkBits.take 29 ++ [0] := rfl
  have hlast : shiftedTm ((timeMarkBits.take 29).foldl shiftedTm c.tm) 0 = 0x3E375096 := by
    rw [← List.foldl_concat (f := shiftedTm), ← hsplit, foldl_timeMarkBits]
  have hupds : upds timeMarkBits = upds (timeMarkBits.take 29) ++ [.upd 0] := rfl
  rw [hupds, chanAfter_append, chanAfter_timeMarkBits_take hs (by decide), chanAfter_cons,
    commandEffect_lock (c := { c with tm := (timeMarkBits.take 29).foldl shiftedTm c.tm }) hs hlast, chanAfter_nil]

/-- Settles O28: the pattern has no proper border, so only the thirtieth bit of the time mark completes it in TM. -/
theorem timeMarkAlwaysLocksAtItsThirtiethBit : Obligations.TimeMarkAlwaysLocksAtItsThirtiethBit := by
  unfold Obligations.TimeMarkAlwaysLocksAtItsThirtiethBit
  intro s hs
  constructor
  · obtain ⟨t, ht, hchan⟩ := feed_next timeMarkBits s
    rw [chanAfter_timeMarkBits hs] at hchan
    exact ⟨t, ht, by simp [hchan]⟩
  · intro k hk
    obtain ⟨u, hu, hchan⟩ := feed_next (timeMarkBits.take k) s
    rw [chanAfter_timeMarkBits_take hs hk] at hchan
    exact ⟨u, hu, by rw [hchan]; exact hs⟩

/-! ### The lock by the last thirty raw bits -/

/-- The raw bits of a search that was never left have written TM alone. -/
theorem chanAfter_of_searching {c : Channel} {l : List Bit} (hs : c.st = 1)
    (h : ∀ k ≤ l.length, (chanAfter (upds (l.take k)) c).st = 1) :
    chanAfter (upds l) c = { c with tm := l.foldl shiftedTm c.tm } := by
  obtain hrun | ⟨k, hk, _, hrun⟩ := chanAfter_search_cases hs l
  · exact hrun
  · have hst := h (k + 1) hk
    rw [hrun, Channel.lock_st] at hst
    exact absurd hst (by decide)

/-- A UPD in SEARCH enters COLLECT exactly when the new TM is the pattern. -/
theorem commandEffect_search_st {b : Bit} {c : Channel} (hs : c.st = 1) :
    (commandEffect (.upd b) c).1.st = 2 ↔ shiftedTm c.tm b = 0x3E375096 := by
  by_cases h : shiftedTm c.tm b = 0x3E375096
  · rw [commandEffect_lock hs h]
    exact iff_of_true rfl h
  · rw [commandEffect_noLock hs h]
    exact iff_of_false (by rw [hs]; decide) h

/-- Settles O29: from a cleared TM the raw bits of the search, and the new one after them, are all that TM holds. -/
theorem lockIffTheLastThirtyBitsAreTheTimeMark : Obligations.LockIffTheLastThirtyBitsAreTheTimeMark := by
  unfold Obligations.LockIffTheLastThirtyBitsAreTheTimeMark
  intro s l b hs htm h
  obtain ⟨t, ht, hchan⟩ := feed_next l s
  have hsearching : ∀ k ≤ l.length, (chanAfter (upds (l.take k)) s.chan).st = 1 := by
    intro k hk
    obtain ⟨u, hu, hst⟩ := h k hk
    obtain ⟨u', hu', hchan'⟩ := feed_next (l.take k) s
    cases hu.symm.trans hu'
    rw [← hchan', hst]
  rw [chanAfter_of_searching hs hsearching, htm] at hchan
  have hst : t.chan.st = 1 := by
    rw [hchan]
    exact hs
  refine ⟨t, _, ht, exec_eq_commandEffect _ t, ?_⟩
  calc (commandEffect (.upd b) t.chan).1.st = 2
    _ ↔ shiftedTm t.chan.tm b = 0x3E375096 := commandEffect_search_st hst
    _ ↔ (l ++ [b]).foldl shiftedTm 0 = 0x3E375096 := by rw [hchan, List.foldl_concat]
    _ ↔ bitsValue (l ++ [b]) % 2 ^ 30 = 0x3E375096 := by
      rw [foldl_shiftedTm_eq_pattern_iff 0 (by simp), BitVec.ofNat_eq_ofNat, BitVec.toNat_zero, Nat.zero_mul, Nat.zero_add]

/-! ### The transition table -/

/-- The registers a string whose checks pass leaves (R125). -/
theorem completeString_fst_of_passes {c : Channel} (h : stringPasses c.win c.nextId) :
    (completeString Config.params c).1 = { c with nextId := successor (stringNumber c.win) } := by
  rw [completeString, if_pos ((stringCheck_ok c).mpr h), stringCheck_sn]

/-- The registers a string with a failed check leaves (R126). -/
theorem completeString_fst_of_not_passes {c : Channel} (h : ¬stringPasses c.win c.nextId) :
    (completeString Config.params c).1 = c.syncLoss := by
  rw [completeString, if_neg (mt (stringCheck_ok c).mp h)]

/-- Settles O44, row by row from the effect of each command. -/
theorem transitionTable : Obligations.TransitionTable := by
  unfold Obligations.TransitionTable
  intro i s t h
  rw [exec_eq_commandEffect] at h
  cases h
  cases i with
  | nop => rfl
  | init => rfl
  | rds sel => rfl
  | ext k n => exact commandEffect_fst_of_read (.inr (.inl ⟨k, n, rfl⟩)) s.chan
  | upd b =>
    refine ⟨fun hs => ?_, fun hs tm' htm => ?_, fun hs hmc => ?_, fun hs hmc hh => ?_⟩
    · rw [commandEffect_upd_invalid hs]
    · obtain rfl : tm' = shiftedTm s.chan.tm b := htm
      split_ifs with hlock
      · rw [commandEffect_lock hs hlock, hlock]
        rfl
      · rw [commandEffect_noLock hs hlock]
    · rw [commandEffect_first hs hmc]
    · refine ⟨_, wroteBit_memWrite s.chan.win hh _, ?_⟩
      obtain hlt | heq : s.chan.head.toNat < 95 ∨ s.chan.head.toNat = 95 := by omega
      · rw [if_pos hlt, commandEffect_second hs hmc hlt]
      · rw [if_neg heq.not_lt, commandEffect_last hs hmc (BitVec.eq_of_toNat_eq heq), heq]
        by_cases hpass : stringPasses (s.chan.filled b).win (s.chan.filled b).nextId
        · rw [completeString_fst_of_passes hpass]
          exact (if_pos hpass).mpr ⟨_, rfl⟩
        · rw [completeString_fst_of_not_passes hpass]
          exact (if_neg hpass).mpr rfl

end Sys2Proof.Machine
end

section
/-! PROOFS. The string check (spec/43_string_check.md R120 to R126): the fields it reads of `W[2]`, and what its two verdicts
write and answer at a completion. -/

namespace Sys2Proof.Machine

/-! ### The fields the check reads -/

/-- The string number's place in the window lies within `W[2]` (R82, R121). -/
theorem extract_number_eq_w2 (w : Window) : extract w 81 4 = (w.w2 >>> 16) &&& 0xF :=
  extract_sameWord w (by decide)

/-- The dummy bit's place in the window (R82, R122). -/
theorem extract_dummy_eq_w2 (w : Window) : extract w 85 1 = (w.w2 >>> 20) &&& 1 :=
  extract_sameWord w (by decide)

/-- The dummy bit as the check reads it is 1 exactly when it is not the expected 0 (R122, R124). -/
theorem extract_dummy_eq_one (w : Window) : extract w 85 1 = 1 ↔ dummyBit w ≠ 0 := by
  rw [extract_dummy]
  generalize dummyBit w = x
  revert x
  decide

/-- Settles O35: both fields lie within `W[2]`, and each of the two loss flags is the test of its own field. -/
theorem stringCheckReadsTheNumberAndTheDummyBit : Obligations.StringCheckReadsTheNumberAndTheDummyBit := by
  unfold Obligations.StringCheckReadsTheNumberAndTheDummyBit
  intro p c
  obtain ⟨hnumber, hdummy, _⟩ := stringCheck_flags_getLsbD p c
  rw [← extract_number_eq_w2, ← extract_dummy_eq_w2]
  exact ⟨rfl, stringCheck_sn p c, rfl, hnumber.trans (extract_number_eq_zero c.win).symm,
    hdummy.trans (extract_dummy_eq_one c.win).symm⟩

/-! ### The two verdicts -/

/-- The response to a string whose checks pass (R125). -/
theorem completeString_snd_of_passes {c : Channel} (h : stringPasses c.win c.nextId) :
    (completeString Config.params c).2 =
      { status := .stringReady, stringId := stringNumber c.win
        seqMatch := if stringNumber c.win = c.nextId then 1 else 0 } := by
  rw [completeString, if_pos ((stringCheck_ok c).mpr h), stringCheck_sn, stringCheck_seq]
  rfl

/-- The response to a string with a failed check (R126). -/
theorem completeString_snd_of_not_passes {c : Channel} (h : ¬stringPasses c.win c.nextId) :
    (completeString Config.params c).2 =
      { status := .syncLoss, stringId := stringNumber c.win
        lossFlags := (if Config.hook (c.win.w2 ++ c.win.w1 ++ c.win.w0) c.nextId = 0 then 1#1 else 0#1) ++
          dummyBit c.win ++ (if stringNumber c.win = 0 then 1#1 else 0#1)
        seqMatch := if stringNumber c.win = c.nextId then 1 else 0 } := by
  rw [completeString, if_neg (mt (stringCheck_ok c).mp h), stringCheck_sn, stringCheck_flags, stringCheck_seq]
  rfl

/-- Settles O33: the completing UPD is `completeString` on the registers with the last data bit, and its two verdicts give the
two outcomes. -/
theorem completedStringIsReportedOrLosesSync : Obligations.CompletedStringIsReportedOrLosesSync := by
  unfold Obligations.CompletedStringIsReportedOrLosesSync
  intro s b hs hmc hh
  refine ⟨(s.chan.filled b).win, wroteBit_memWrite _ le_rfl _, ?_⟩
  rw [exec_eq_commandEffect, commandEffect_last hs hmc hh]
  by_cases hpass : stringPasses (s.chan.filled b).win s.chan.nextId
  · rw [if_pos hpass, completeString_fst_of_passes hpass, completeString_snd_of_passes hpass]
    rfl
  · rw [if_neg hpass, completeString_fst_of_not_passes hpass, completeString_snd_of_not_passes hpass]
    rfl

end Sys2Proof.Machine
end

section
/-! PROOFS. Initialisation and control (spec/44_init_control.md R135 to R137): what NOP, INIT and RDS answer, the register each
number of RDS selects, and INIT as the one way out of INVALID. -/

namespace Sys2Proof.Machine

/-! ### The register a number selects (R22, R137) -/

@[simp] theorem Channel.register_zero (c : Channel) : c.register 0 = c.st.setWidth 32 := rfl
@[simp] theorem Channel.register_one (c : Channel) : c.register 1 = c.head.setWidth 32 := rfl
@[simp] theorem Channel.register_two (c : Channel) : c.register 2 = c.tm := rfl
@[simp] theorem Channel.register_three (c : Channel) : c.register 3 = c.nextId.setWidth 32 := rfl
@[simp] theorem Channel.register_four (c : Channel) : c.register 4 = (c.phase ++ c.mc).setWidth 32 := rfl
@[simp] theorem Channel.register_five (c : Channel) : c.register 5 = c.win.w0 := rfl
@[simp] theorem Channel.register_six (c : Channel) : c.register 6 = c.win.w1 := rfl
@[simp] theorem Channel.register_seven (c : Channel) : c.register 7 = c.win.w2 := rfl

/-- Two one-bit registers side by side, zero-extended: the lower one is bit 0, the upper one bit 1, and nothing stands above. -/
theorem appendedBits_zeroExtended (x y : Bit) :
    ((x ++ y).setWidth 32).getLsbD 0 = y.getLsbD 0 ∧ ((x ++ y).setWidth 32).getLsbD 1 = x.getLsbD 0 ∧
      ((x ++ y).setWidth 32).toNat < 4 := by
  revert x y
  decide

/-! ### The three commands -/

/-- NOP adds an empty response (R136). -/
theorem exec_nop (s : State) : exec .nop s = .next { s with responses := (s.before.length, {}) :: s.responses } :=
  exec_eq_commandEffect .nop s

/-- INIT writes its constant and adds an empty response (R135). -/
theorem exec_init (s : State) : exec .init s = .next
    { s with chan := Channel.initialised, responses := (s.before.length, {}) :: s.responses } :=
  exec_eq_commandEffect .init s

/-- RDS adds the register's value (R137). -/
theorem exec_rds (sel : BitVec 3) (s : State) : exec (.rds sel) s = .next
    { s with responses := (s.before.length, { data := s.chan.register sel }) :: s.responses } :=
  exec_eq_commandEffect (.rds sel) s

theorem chan_of_exec_init {s t : State} (h : exec .init s = .next t) : t.chan = Channel.initialised := by
  rw [exec_init] at h
  cases h
  rfl

/-- While STATE is INVALID every command but INIT leaves the registers: UPD and EXT raise NOT_INITIALISED, NOP and RDS write
none (R135). -/
theorem commandEffect_fst_of_invalid {i : Instr} {c : Channel} (h : c.st = 0 ∨ c.st = 3) (hi : i ≠ .init) :
    (commandEffect i c).1 = c := by
  cases i with
  | init => exact absurd rfl hi
  | nop => rfl
  | rds sel => rfl
  | upd b => rw [commandEffect_upd_invalid h]
  | ext k n => rw [commandEffect_ext_invalid h]

/-! ### The statements -/

/-- Settles O13: INIT leaves the constant, of which STATE and NEXT_ID are 1, and no other command writes while INVALID. -/
theorem initGivesAConstantAndAloneLeavesInvalid : Obligations.InitGivesAConstantAndAloneLeavesInvalid := by
  unfold Obligations.InitGivesAConstantAndAloneLeavesInvalid
  refine ⟨decodeOfEncodeIsTheCommand .init rfl, exec_init, fun s t u ht hu => ?_, fun i s t hst ht hi => ?_,
    fun s t ht => ?_⟩
  · exact (chan_of_exec_init hu).trans (chan_of_exec_init ht).symm
  · rw [exec_eq_commandEffect, commandEffect_fst_of_invalid hst hi] at ht
    cases ht
    rfl
  · rw [exec_rds, exec_rds, chan_of_exec_init ht]
    exact ⟨rfl, rfl⟩

/-- Settles O12, by what NOP does. -/
theorem nopOnlyAnswers : Obligations.NopOnlyAnswers := by
  unfold Obligations.NopOnlyAnswers
  exact ⟨decodeOfEncodeIsTheCommand .nop rfl, exec_nop⟩

/-- Settles O14: RDS answers the register its number selects. -/
theorem rdsReturnsTheSelectedRegister : Obligations.RdsReturnsTheSelectedRegister := by
  unfold Obligations.RdsReturnsTheSelectedRegister
  intro s sel _
  refine ⟨decodeOfEncodeIsTheCommand (.rds sel) rfl, s.chan.register sel, exec_rds sel s, ?_⟩
  refine ⟨?_, ?_, ?_, ?_, ?_, ?_, ?_, ?_⟩ <;> rintro rfl
  · exact s.chan.register_zero
  · exact s.chan.register_one
  · exact s.chan.register_two
  · exact s.chan.register_three
  · rw [s.chan.register_four]
    exact appendedBits_zeroExtended s.chan.phase s.chan.mc
  · exact s.chan.register_five
  · exact s.chan.register_six
  · exact s.chan.register_seven

end Sys2Proof.Machine
end

section
/-! PROOFS. Contract violations and steps (spec/60_exceptions.md R145 to R160): when a step stops, what a violation leaves, that UPD
raises none once initialised, that commands to two instances commute, and that a clear delays the next completion by a whole
time mark and string. -/

namespace Sys2Proof.Machine

/-! ### When a step stops -/

theorem State.channels_length (s : State) : s.channels.length = s.before.length + 1 + s.after.length := by
  rw [channels, List.length_append, List.length_cons, Nat.add_right_comm, Nat.add_assoc]

/-- A step on an input for an instance that exists answers a next state (what it holds is `step_next_effect`). -/
theorem step_next_of_present {s : State} {x : Input} {rest : List Input} (hi : s.inbox = x :: rest)
    (hl : x.target < s.channels.length) : ∃ t, step s = .next t := by
  obtain ⟨_, hlen⟩ | ⟨pre, c, post, hc, hpre, _⟩ := s.address_cases x.target
  · exact absurd hl hlen.not_gt
  · cases x with
    | powerOnReset k =>
      cases hpre
      exact ⟨_, step_of_powerOn hc hi⟩
    | command k w =>
      cases hpre
      cases hd : decode w with
      | ok i => exact ⟨_, (step_of_command hc hi hd).trans (exec_eq_commandEffect i _)⟩
      | error e => exact ⟨_, step_of_illegal hc hi hd⟩

/-- Settles O10: a step on an input faults if the instance is missing and answers a next state if it is present. -/
theorem stepStopsOnlyForAMissingInstance : Obligations.StepStopsOnlyForAMissingInstance := by
  unfold Obligations.StepStopsOnlyForAMissingInstance
  intro s
  refine ⟨step_of_no_input, ?_⟩
  rw [← s.channels_length]
  cases hi : s.inbox with
  | nil =>
    rw [step_of_no_input hi]
    exact ⟨nofun, fun f => ⟨nofun, nofun⟩⟩
  | cons x rest =>
    obtain hl | hl := Nat.lt_or_ge x.target s.channels.length
    · obtain ⟨t, ht⟩ := step_next_of_present hi hl
      rw [ht]
      refine ⟨nofun, fun f => ⟨nofun, ?_⟩⟩
      rintro ⟨_, _, ⟨rfl, rfl⟩, hle⟩
      exact absurd hl hle.not_gt
    · rw [step_fault_of_missing hi hl]
      exact ⟨nofun, fun .noSuchInstance => ⟨fun _ => ⟨x, rest, rfl, hl⟩, fun _ => rfl⟩⟩

/-! ### What a violation leaves -/

/-- The field `err` is 1 exactly when there is a violation: no violation has the code 0 (spec/30_encoding.md R54, R56). -/
theorem Response.err_eq_one_iff (r : Response) : r.err = 1 ↔ r.violation ≠ none := by
  rw [err, errCode]
  obtain _ | v := r.violation
  · decide
  · cases v <;> decide

/-- A command whose response carries a violation raised it: the registers are as they were, and nothing else is answered (R147). -/
theorem commandEffect_of_violation {i : Instr} {c : Channel} (h : (commandEffect i c).2.violation ≠ none) :
    ∃ v, commandEffect i c = (c, violationResponse v) := by
  cases ho : outcomeOn i c with
  | error v => exact ⟨v, commandEffect_of_error ho⟩
  | ok cr =>
    rw [commandEffect_of_ok ho] at h
    exact absurd (outcomeOn_ok_violation ho) h

/-- Settles O43: a word that does not decode is refused whole, and a command that raises ends with its violation alone. -/
theorem violationsLeaveNoTrace : Obligations.ViolationsLeaveNoTrace := by
  unfold Obligations.ViolationsLeaveNoTrace
  refine ⟨fun s w e rest hi hd => step_of_illegal rfl hi hd, fun i s => ?_⟩
  refine ⟨_, _, exec_eq_commandEffect i s, Response.err_eq_one_iff _, fun h => ?_⟩
  obtain ⟨v, hv⟩ := commandEffect_of_violation h
  rw [hv]
  exact ⟨rfl, rfl, rfl, rfl, rfl, rfl⟩

/-! ### UPD once initialised -/

/-- Within the invariant a UPD completes once STATE has left INVALID: HEAD is never beyond the window (R19, R145). -/
theorem updChannel_ok_of_inv {c : Channel} (h : c.Inv) (hs : c.st ≠ 0) (p : Config.Params) (b : Bit) :
    ∃ cr, updChannel p b c = .ok cr := by
  obtain ⟨hh, _, hs3, _⟩ := h
  obtain ⟨_, hst⟩ | ⟨_, hst⟩ | ⟨_, hst⟩ := c.mode_cases
  · exact ⟨_, updChannel_search hst⟩
  · rw [updChannel_collect hst]
    obtain ⟨_, hc⟩ | ⟨_, hlt, _⟩ | ⟨_, _, hc⟩ | ⟨_, _, hc⟩ := collectBit_cases p b c
    · exact ⟨_, hc⟩
    · exact absurd hh hlt.not_ge
    · exact ⟨_, hc⟩
    · exact ⟨_, hc⟩
  · exact absurd hst (not_or_intro hs hs3)

/-- Settles O49: within the invariant an initialised UPD completes, and a command that completes answers no violation. -/
theorem updNeverRaisesOnceInitialised : Obligations.UpdNeverRaisesOnceInitialised := by
  unfold Obligations.UpdNeverRaisesOnceInitialised
  intro s b hinv hs hrec
  obtain ⟨cr, hcr⟩ := updChannel_ok_of_inv hinv hs Config.params b
  have hnone : (commandEffect (.upd b) s.chan).2.violation = none := by
    rw [commandEffect_of_ok (i := .upd b) hcr]
    exact outcomeOn_ok_violation (i := .upd b) hcr
  refine ⟨_, exec_eq_commandEffect _ s, ?_⟩
  rw [State.noViolation, List.all_cons, hnone]
  exact hrec

/-! ### Commands to two instances -/

/-- A command word always has a response, legal or not (R50, R53). -/
theorem Input.effect_command (k : Nat) (w : CommandWord) (c : Channel) :
    ∃ c' r, (Input.command k w).effect c = (c', some r) := by
  cases hd : decode w with
  | ok i => exact ⟨_, _, effect_of_ok hd k c⟩
  | error e => exact ⟨_, _, effect_of_error hd k c⟩

/-- A step on a command word for an instance that exists. -/
theorem step_of_effect {s : State} {k : Nat} {w : CommandWord} {rest : List Input} {c c' : Channel} {r : Response}
    (hi : s.inbox = .command k w :: rest) (hc : s.channels[k]? = some c)
    (he : (Input.command k w).effect c = (c', some r)) :
    ∃ t, step s = .next t ∧ t.inbox = rest ∧ t.channels = s.channels.set k c' ∧ t.responses = (k, r) :: s.responses := by
  obtain ⟨t, ht⟩ := step_next_of_present hi (List.getElem?_eq_some_iff.mp hc).1
  obtain ⟨hinbox, d, hd, hchannels, hresponses⟩ := step_next_effect hi ht
  obtain rfl : c = d := Option.some.inj (hc.symm.trans hd)
  rw [he] at hchannels hresponses
  exact ⟨t, ht, hinbox, hchannels, hresponses⟩

/-- Two steps on command words for different instances: each takes its effect on the registers it had at the start (R28). -/
theorem step_step_of_effect {s : State} {j k : Nat} {v w : CommandWord} {rest : List Input} {c d c' d' : Channel}
    {a b : Response} (hjk : j ≠ k) (hi : s.inbox = .command j v :: .command k w :: rest)
    (hc : s.channels[j]? = some c) (hd : s.channels[k]? = some d)
    (hv : (Input.command j v).effect c = (c', some a)) (hw : (Input.command k w).effect d = (d', some b)) :
    ∃ t u, step s = .next t ∧ step t = .next u ∧ u.inbox = rest ∧
      u.channels = (s.channels.set j c').set k d' ∧ u.responses = (k, b) :: (j, a) :: s.responses := by
  obtain ⟨t, ht, hinbox, hchannels, hresponses⟩ := step_of_effect hi hc hv
  have hd' : t.channels[k]? = some d := by rw [hchannels, List.getElem?_set_ne hjk, hd]
  obtain ⟨u, hu, hinbox', hchannels', hresponses'⟩ := step_of_effect hinbox hd' hw
  rw [hchannels] at hchannels'
  rw [hresponses] at hresponses'
  exact ⟨t, u, ht, hu, hinbox', hchannels', hresponses'⟩

/-- Settles O51: in both orders each instance takes its effect on its own registers, and writes to two places commute. -/
theorem commandsToDifferentInstancesCommute : Obligations.CommandsToDifferentInstancesCommute := by
  unfold Obligations.CommandsToDifferentInstancesCommute
  intro s j k v w rest hjk hj hk
  obtain ⟨c', a, hv⟩ := Input.effect_command j v s.channels[j]
  obtain ⟨d', b, hw⟩ := Input.effect_command k w s.channels[k]
  have hc := List.getElem?_eq_getElem hj
  have hd := List.getElem?_eq_getElem hk
  obtain ⟨t, u, ht, hu, hinbox, hchannels, hresponses⟩ :=
    step_step_of_effect (s := { s with inbox := .command j v :: .command k w :: rest }) hjk rfl hc hd hv hw
  obtain ⟨t', u', ht', hu', hinbox', hchannels', hresponses'⟩ :=
    step_step_of_effect (s := { s with inbox := .command k w :: .command j v :: rest }) hjk.symm rfl hd hc hw hv
  refine ⟨t, u, t', u', (j, a), (k, b), ht, hu, ht', hu', ?_, hinbox.trans hinbox'.symm, hresponses, hresponses'⟩
  rw [hchannels, hchannels']
  exact List.set_comm _ _ hjk

/-! ### The raw bits after a clear -/

/-- One bit at most enters TM with a raw bit (R101). -/
theorem shiftedTm_toNat_lt {tm : Word} {k : Nat} (h : tm.toNat < 2 ^ k) (b : Bit) :
    (shiftedTm tm b).toNat < 2 ^ (k + 1) := by
  have hb := b.isLt
  calc (shiftedTm tm b).toNat
    _ ≤ tm.toNat * 2 + b.toNat := by
      rw [shiftedTm_toNat]
      exact Nat.mod_le _ _
    _ < 2 ^ (k + 1) := by omega

/-- The pattern's first bit is 1, so TM is not the pattern before thirty bits have entered it (R102). -/
theorem thirty_le_of_pattern_lt {k : Nat} (h : (0x3E375096 : Word).toNat < 2 ^ k) : 30 ≤ k := by
  have hfirst : 2 ^ 29 ≤ (0x3E375096 : Word).toNat := by decide
  exact (Nat.pow_lt_pow_iff_right Nat.one_lt_two).mp (hfirst.trans_lt h)

/-- The lock starts a string: none of its raw bits has been received (R103). -/
theorem Channel.lock_rawBits (c : Channel) (p : Config.Params) : (c.lock p).rawBits = 0 := rfl

/-- A run of raw bits that starts with one that is answered NONE goes on from the registers that one left. -/
theorem feed_cons_of_none {s : State} {b : Bit} {c : Channel} (h : commandEffect (.upd b) s.chan = (c, {})) (l : List Bit) :
    feed (b :: l) s = feed l { s with chan := c, responses := (s.before.length, {}) :: s.responses } := by
  apply runCommands_cons
  rw [exec_eq_commandEffect, h]

/-- From a search whose TM holds at most `k` bits, every raw bit up to the 221st since the clear is answered NONE: those that
search, and fewer than 192 after the lock. -/
theorem feed_of_search {s : State} {l : List Bit} {k : Nat} (hs : s.chan.st = 1) (htm : s.chan.tm.toNat < 2 ^ k)
    (hl : k + l.length ≤ 221) :
    ∃ c, feed l s = .next
      { s with chan := c, responses := List.replicate l.length (s.before.length, {}) ++ s.responses } := by
  induction l generalizing s k with
  | nil => exact ⟨s.chan, rfl⟩
  | cons b l ih =>
    rw [List.length_cons] at hl ⊢
    have htm' := shiftedTm_toNat_lt htm b
    rw [List.replicate_succ', List.append_assoc]
    by_cases h : shiftedTm s.chan.tm b = 0x3E375096
    · rw [h] at htm'
      have hk := thirty_le_of_pattern_lt htm'
      rw [feed_cons_of_none (commandEffect_lock hs h)]
      obtain ⟨c, hfeed, _⟩ := feed_before_completion
        (s := { s with
          chan := { s.chan with tm := 0x3E375096 }.lock Config.params
          responses := (s.before.length, {}) :: s.responses }) rfl (l := l) (by rw [Channel.lock_rawBits]; omega)
      exact ⟨c, hfeed⟩
    · rw [feed_cons_of_none (commandEffect_noLock hs h)]
      exact ih (s := { s with
        chan := { s.chan with tm := shiftedTm s.chan.tm b }
        responses := (s.before.length, {}) :: s.responses }) hs htm' (by omega)

/-- Settles O30: a cleared TM holds no bits, so the lock takes 30 raw bits at least, and a completion 192 after it. -/
theorem noCompletionWithin221BitsOfAClear : Obligations.NoCompletionWithin221BitsOfAClear := by
  unfold Obligations.NoCompletionWithin221BitsOfAClear
  intro s l hs htm hl
  obtain ⟨c, hfeed⟩ := feed_of_search (l := l) (k := 0) hs (by rw [htm]; decide) (by omega)
  exact ⟨_, _, hfeed, rfl, fun x hx => by rw [List.eq_of_mem_replicate hx]⟩

end Sys2Proof.Machine
end

section
/-! PROOFS. The extraction window (spec/70_reset_and_hazards.md R173): the slots a field occupies are overwritten no earlier than
by the `2i`-th UPD of the next string. -/

namespace Sys2Proof.Machine

/-! ### The slots EXT reads -/

/-- EXT of a legal request reads no slot below `i - 1` (R81, R84). -/
theorem extract_congr {w w' : Window} {i n : Nat} (hn : n ≤ 32) (hi : 1 ≤ i) (hin : i + n - 1 ≤ 96)
    (h : ∀ a < 96, i - 1 ≤ a → memBit w' a = memBit w a) : extract w' i n = extract w i n := by
  apply BitVec.eq_of_getLsbD_eq
  intro j _
  rw [extract_getLsbD w' hn hi hin, extract_getLsbD w hn hi hin]
  by_cases hj : j < n
  · have hbit := h (i - 1 + j) (by omega) (by omega)
    rw [memBit_eq_ofBool, memBit_eq_ofBool, BitVec.ofBool_eq_iff_eq] at hbit
    rw [hbit]
  · rw [decide_eq_false hj, Bool.false_and, Bool.false_and]

/-- A legal request after INIT answers its field and leaves the rest of the state (R81, R85). -/
theorem exec_ext_legal {s : State} {i n : Nat} (hst : s.chan.st = 2) (hn : 1 ≤ n) (hn' : n ≤ 32) (hi : 1 ≤ i)
    (hin : i + n - 1 ≤ 96) : exec (.ext i n) s = .next
      { s with responses := (s.before.length, { data := extract s.chan.win i n }) :: s.responses } := by
  have hready : ¬(s.chan.st = 0 ∨ s.chan.st = 3) := by
    rw [hst]
    decide
  rw [exec_ext, commandEffect_ext_legal hready ((requestViolation_eq_none i n).mpr ⟨hn, hn', hi, hin⟩)]

/-! ### The window while the next string comes in -/

theorem upds_append (l m : List Bit) : upds (l ++ m) = upds l ++ upds m :=
  List.map_append

/-- From the start of a string, fewer than 192 raw bits stay in COLLECT and fill the slots of their whole pairs alone: a first
half left over writes no slot (R92, R104). -/
theorem chanAfter_short {c : Channel} (hs : c.st = 2) (hmc : c.mc = 0) (hh : c.head = 0) {l : List Bit}
    (hl : l.length < 192) :
    (chanAfter (upds l) c).st = 2 ∧ FilledBelow c.win c.phase l (l.length / 2) (chanAfter (upds l) c).win := by
  obtain ⟨w, hw, hfilled⟩ := chanAfter_pairs hs hmc hh (l := l) (k := l.length / 2) (by omega) (by omega)
  obtain heven | hodd := Nat.mod_two_eq_zero_or_one l.length
  · rw [List.take_of_length_le (by omega)] at hw
    rw [hw]
    exact ⟨hs, hfilled⟩
  · have hlt : 2 * (l.length / 2) < l.length := by omega
    have hall : l = l.take (2 * (l.length / 2)) ++ [l[2 * (l.length / 2)]] := by
      rw [← List.take_succ_eq_append_getElem hlt, List.take_of_length_le (by omega)]
    have hrun : chanAfter (upds l) c = { c with win := w, head := BitVec.ofNat 7 (l.length / 2), mc := 1 } := by
      rw [congrArg upds hall, upds_append, chanAfter_append, hw]
      exact congrArg Prod.fst (commandEffect_first (c := { c with win := w, head := _ }) hs hmc)
    rw [hrun]
    exact ⟨hs, hfilled⟩

/-- Settles O41: fewer than `2i` UPD commands fill slots below `i - 1` alone, and EXT at bit index `i` reads none of those. -/
theorem fieldsStayIntactInTheExtractionWindow : Obligations.FieldsStayIntactInTheExtractionWindow := by
  unfold Obligations.FieldsStayIntactInTheExtractionWindow
  intro s l i n hs hmc hh hn hn' hi hin hl
  obtain ⟨t, ht, hchan⟩ := feed_next l s
  obtain ⟨hst, hfilled⟩ := chanAfter_short hs hmc hh (l := l) (by omega)
  rw [← hchan] at hst hfilled
  have hsame : extract t.chan.win i n = extract s.chan.win i n :=
    extract_congr hn' hi hin fun a ha hia => (hfilled a ha).trans (if_neg (by omega))
  refine ⟨t, extract s.chan.win i n, ht, exec_ext_legal hs hn hn' hi hin, ?_⟩
  rw [← hsame]
  exact exec_ext_legal hst hn hn' hi hin

end Sys2Proof.Machine
end

section
/-! PROOFS. RDS at the unused STATE code 3 (spec/44_init_control.md R137, log entry 9): the answer is the two bits of STATE. -/

namespace Sys2Proof.Machine

/-- The unused code 3 is read as it stands: register 0 is STATE's two bits zero-extended (R22, R137). -/
theorem Channel.register_zero_of_unusedCode {c : Channel} (h : c.st = 3) : c.register 0 = 3 := by
  rw [c.register_zero, h]
  decide

/-- Settles O15, by what RDS adds to the responses in every state. -/
theorem rdsOfTheUnusedStateCode : Obligations.RdsOfTheUnusedStateCode := by
  unfold Obligations.RdsOfTheUnusedStateCode
  intro s hst
  rw [exec_rds, Channel.register_zero_of_unusedCode hst]

end Sys2Proof.Machine
end
